-- ==== Sys2Proof/Word.lean ====
section
/-! DEFINITION. The word types of the framer (spec/00_scope.md R10). -/

namespace Sys2Proof

/-- A byte: 8 bits, an unsigned value 0..255 (R10). -/
abbrev Byte := BitVec 8

/-- A 16-bit quantity: a coordinate, a dimension, a count or an RGB565 colour (R24, R172). -/
abbrev Word16 := BitVec 16

/-- The level of a control line: `false` is logic 0, `true` is logic 1 (R120). -/
abbrev Level := Bool

end Sys2Proof
end

