-- ==== Sys2Proof/Syntax.lean ====
section
/-! DEFINITION. The eight requests of the framer (spec/30_encoding.md R90, spec/opcode_table.json). -/

namespace Sys2Proof

/-- The direction operand of SET_WINDOW (R87): `WRITE = 0`, `READ = 1`. -/
inductive Dir where
  | write
  | read
  deriving DecidableEq, Repr, Inhabited

/-- One request with its operands: one constructor per row of spec/opcode_table.json. -/
inductive Instr where
  /-- INITIALIZE, opcode 0x01, format Z (R180). -/
  | initialise
  /-- CLEANUP, opcode 0x02, format Z (R186). -/
  | cleanup
  /-- SEND_BARE, opcode 0x10, format C (R141): `CMD`. -/
  | sendBare (cmd : Byte)
  /-- SEND, opcode 0x11, format CA (R140): `CMD` and the argument bytes, whose number is `NARG`. -/
  | send (cmd : Byte) (args : List Byte)
  /-- SET_WINDOW, opcode 0x20, format W (R150): `DIR`, `X1`, `Y1`, `X2`, `Y2`, in packet order. -/
  | setWindow (dir : Dir) (x1 y1 x2 y2 : Word16)
  /-- STREAM, opcode 0x21, format S (R160): the data bytes, whose number is `NARG`. -/
  | stream (data : List Byte)
  /-- END_SESSION, opcode 0x22, format Z (R163). -/
  | endSession
  /-- FILL_RECT, opcode 0x30, format F (R166): `X`, `Y`, `W`, `H`, `COLOR`, in packet order. -/
  | fillRect (x y w h color : Word16)
  deriving DecidableEq, Repr, Inhabited

end Sys2Proof
end

