-- ==== Sys2Proof/WellFormed.lean ====
section
/-! DEFINITION. Which terms of `Instr` are requests a packet can carry (spec/30_encoding.md R84 to R89).
What a packet carries but the framer refuses as an illegal operand (R93, R216) is well-formed: the refusal is the
request's meaning. -/

namespace Sys2Proof

/-- The 16-bit field `NARG` can hold the number of bytes of the list (R86, R88: "the 16-bit count bounds it at
65535"). Only SEND and STREAM carry a list. -/
def Instr.wellFormed : Instr → Bool
  | .initialise => true
  | .cleanup => true
  | .sendBare _ => true
  | .send _ args => decide (args.length ≤ 65535)
  | .setWindow _ _ _ _ _ => true
  | .stream data => decide (data.length ≤ 65535)
  | .endSession => true
  | .fillRect _ _ _ _ _ => true

end Sys2Proof
end

