-- ==== Sys2Proof/Decode.lean ====
section
/-! DEFINITION. Request packets to requests and back (spec/30_encoding.md R80 to R95): byte splitting and
joining, the decoder, total on every byte list and refusing by name, the encoder written from the same format tables,
and the reading of an opcode-table word. -/

namespace Sys2Proof

/-- `hi(v) = v[15:8]` (R10). -/
def hi (v : Word16) : Byte := BitVec.ofNat 8 (v.toNat / 256)

/-- `lo(v) = v[7:0]` (R10). -/
def lo (v : Word16) : Byte := BitVec.ofNat 8 v.toNat

/-- `be16(v) = [hi(v), lo(v)]` (R10). -/
def be16 (v : Word16) : List Byte := [hi v, lo v]

/-- The 16-bit operand at offsets `o` and `o+1` has the value `packet[o] * 256 + packet[o+1]` (R83). -/
def word16 (h l : Byte) : Word16 := BitVec.ofNat 16 (h.toNat * 256 + l.toNat)

/-- The request opcodes (R90). -/
def opInitialise : Byte := 0x01
def opCleanup    : Byte := 0x02
def opSendBare   : Byte := 0x10
def opSend       : Byte := 0x11
def opSetWindow  : Byte := 0x20
def opStream     : Byte := 0x21
def opEndSession : Byte := 0x22
def opFillRect   : Byte := 0x30

/-- Why a packet does not decode (R91, R92, R93). Every one is answered `PRECONDITION_VIOLATION` (R203). -/
inductive DecodeError where
  /-- No opcode byte (R91). -/
  | emptyPacket
  /-- Byte 0 is none of the eight opcodes (R91). -/
  | reservedOpcode (opr : Byte)
  /-- The packet's length is not the length its format demands (R92). -/
  | wrongLength (opr : Byte)
  /-- The packet is too short to contain its own `NARG` field (R92). -/
  | noNarg (opr : Byte)
  /-- SET_WINDOW's byte 1 is in `0x02..0xFF` (R87, R93). -/
  | illegalDir (dir : Byte)
  deriving DecidableEq, Repr

/-- `DIR`: `0x00` = WRITE, `0x01` = READ, everything else illegal (R87). -/
def dirOfByte (b : Byte) : Except DecodeError Dir :=
  if b = 0x00 then .ok .write else if b = 0x01 then .ok .read else .error (.illegalDir b)

/-- The `DIR` byte of a packet (R87). -/
def dirByte : Dir → Byte
  | .write => 0x00
  | .read => 0x01

/-- Format `Z`: no operand, length exactly 1 (R84). -/
def decodeZ (opr : Byte) (i : Instr) : List Byte → Except DecodeError Instr
  | [] => .ok i
  | _ :: _ => .error (.wrongLength opr)

/-- Format `C`: one controller opcode, length exactly 2 (R85). -/
def decodeC : List Byte → Except DecodeError Instr
  | [cmd] => .ok (.sendBare cmd)
  | _ => .error (.wrongLength opSendBare)

/-- Format `CA`: controller opcode, `NARG`, `NARG` argument bytes, length exactly `4 + NARG` (R86). -/
def decodeCA : List Byte → Except DecodeError Instr
  | cmd :: n1 :: n0 :: args =>
    if args.length = (word16 n1 n0).toNat then .ok (.send cmd args) else .error (.wrongLength opSend)
  | _ => .error (.noNarg opSend)

/-- Format `W`: direction and region, length exactly 10 (R87). -/
def decodeW : List Byte → Except DecodeError Instr
  | [d, a1, a0, b1, b0, c1, c0, e1, e0] =>
    match dirOfByte d with
    | .ok dir => .ok (.setWindow dir (word16 a1 a0) (word16 b1 b0) (word16 c1 c0) (word16 e1 e0))
    | .error e => .error e
  | _ => .error (.wrongLength opSetWindow)

/-- Format `S`: `NARG` and `NARG` data bytes, length exactly `3 + NARG` (R88). `NARG = 0` is an illegal operand, not
an undecodable packet (R93, R216). -/
def decodeS : List Byte → Except DecodeError Instr
  | n1 :: n0 :: data =>
    if data.length = (word16 n1 n0).toNat then .ok (.stream data) else .error (.wrongLength opStream)
  | _ => .error (.noNarg opStream)

/-- Format `F`: rectangle and colour, length exactly 11 (R89). -/
def decodeF : List Byte → Except DecodeError Instr
  | [x1, x0, y1, y0, w1, w0, h1, h0, c1, c0] =>
    .ok (.fillRect (word16 x1 x0) (word16 y1 y0) (word16 w1 w0) (word16 h1 h0) (word16 c1 c0))
  | _ => .error (.wrongLength opFillRect)

/-- The decoder (R90 to R95): byte 0 selects the format, the format reads the rest. It is the same in every
`LSTATE` and `SESSION` (R95). -/
def decode : List Byte → Except DecodeError Instr
  | [] => .error .emptyPacket
  | opr :: rest =>
    if opr = opInitialise then decodeZ opr .initialise rest
    else if opr = opCleanup then decodeZ opr .cleanup rest
    else if opr = opSendBare then decodeC rest
    else if opr = opSend then decodeCA rest
    else if opr = opSetWindow then decodeW rest
    else if opr = opStream then decodeS rest
    else if opr = opEndSession then decodeZ opr .endSession rest
    else if opr = opFillRect then decodeF rest
    else .error (.reservedOpcode opr)

/-- The encoder: the packet of a request, by the format tables of R84 to R89. -/
def encode : Instr → List Byte
  | .initialise => [opInitialise]
  | .cleanup => [opCleanup]
  | .sendBare cmd => [opSendBare, cmd]
  | .send cmd args => [opSend, cmd] ++ be16 (BitVec.ofNat 16 args.length) ++ args
  | .setWindow dir x1 y1 x2 y2 => [opSetWindow, dirByte dir] ++ be16 x1 ++ be16 y1 ++ be16 x2 ++ be16 y2
  | .stream data => [opStream] ++ be16 (BitVec.ofNat 16 data.length) ++ data
  | .endSession => [opEndSession]
  | .fillRect x y w h color => [opFillRect] ++ be16 x ++ be16 y ++ be16 w ++ be16 h ++ be16 color

/-- Byte `k` of a table word: byte 0 of the packet is bits 7..0 (log 19). -/
def wordByte (w k : Nat) : Byte := BitVec.ofNat 8 (w >>> (8 * k))

/-- The length a packet must have, from its first bytes (R95). For a reserved opcode, 1. -/
def expectedLength (b : Nat → Byte) : Nat :=
  if b 0 = opSendBare then 2
  else if b 0 = opSend then 4 + (word16 (b 2) (b 3)).toNat
  else if b 0 = opSetWindow then 10
  else if b 0 = opStream then 3 + (word16 (b 1) (b 2)).toNat
  else if b 0 = opFillRect then 11
  else 1

/-- The packet of an opcode-table word of `nbits` bits: every bit above `nbits` is 0 and the packet is as long as its
opcode and `NARG` demand, or as the word, whichever is longer (log 19). -/
def packetOfWord (nbits w : Nat) : List Byte :=
  (List.range (max (expectedLength (wordByte (w % 2 ^ nbits))) (nbits / 8))).map (wordByte (w % 2 ^ nbits))

/-- The request this decoder reads from an opcode-table word. -/
def decodeTableWord (nbits w : Nat) : Option Instr :=
  match decode (packetOfWord nbits w) with
  | .ok i => some i
  | .error _ => none

end Sys2Proof
end

