-- ==== Sys2Proof/Config.lean ====
section
/-! DEFINITION. The parameters of the framer (spec/00_scope.md R6 to R8), the constraints on them, one
reference instance of them, and the free values: what the spec leaves open, as opaque constants with no body. -/

namespace Sys2Proof

/-- "one of four clock-polarity/phase combinations" (R6 `SPI_MODE`, R219). -/
inductive SpiMode where
  | mode0 | mode1 | mode2 | mode3
  deriving DecidableEq, Repr, Inhabited

/-- "most-significant-bit-first or least-significant-bit-first" (R6 `BIT_ORDER`, R54; C8). -/
inductive BitOrder where
  | msbFirst | lsbFirst
  deriving DecidableEq, Repr, Inhabited

/-- The ten categories of bring-up step (d), in the document's fixed order (R8). -/
inductive Category where
  | gamma | power | vcom | memoryAccessControl | pixelFormat | interfaceMode | frameRate
  | displayFunction | entryMode | imageFunction
  deriving DecidableEq, Repr, Inhabited

/-- The order in which the categories appear in `INIT_TABLE` (R8). -/
def Category.inOrder : List Category :=
  [.gamma, .power, .vcom, .memoryAccessControl, .pixelFormat, .interfaceMode, .frameRate,
   .displayFunction, .entryMode, .imageFunction]

/-- One entry `(cat, opc, args)` of `INIT_TABLE` (R8). -/
structure InitEntry where
  cat  : Category
  opc  : Byte
  args : List Byte
  deriving DecidableEq, Repr, Inhabited

/-- The order of one window's pixels, listed: the number of the pixel that is visited first, second, and so on (log 14). -/
structure ScanEntry where
  x1    : Word16
  y1    : Word16
  x2    : Word16
  y2    : Word16
  order : List Nat
  deriving DecidableEq, Repr, Inhabited

/-- How many pixels the window has (R66). -/
def ScanEntry.area (e : ScanEntry) : Nat := (e.x2.toNat + 1 - e.x1.toNat) * (e.y2.toNat + 1 - e.y1.toNat)

/-- The parameter `SCAN_ORDER` of the reference controller (R66, D23), as plain data: whether successive pixels run along
columns instead of rows, whether either axis runs backwards, and, for any window, an order of its pixels listed outright.
There are finitely many windows, so every family of one-to-one maps R66 allows can be listed. All `false` with nothing
listed is the default, row-major. -/
structure ScanOrder where
  alongColumn : Bool
  flipX       : Bool
  flipY       : Bool
  listed      : List ScanEntry
  deriving DecidableEq, Repr, Inhabited

/-- The Panel record and the further parameters (R6, R21). Identifiers and transport arguments the spec calls
opaque are natural numbers; durations are in microseconds (log 3). -/
structure Config where
  width      : Nat
  height     : Nat
  busId      : Nat
  pinCs      : Nat
  pinDc      : Nat
  pinRst     : Nat
  baud       : Nat
  spiMode    : SpiMode
  bitOrder   : BitOrder
  busPins    : Nat
  pullMode   : Nat
  cmdTimeout : Nat
  rowTimeout : Nat
  tRstLow    : Nat
  tRstHigh   : Nat
  tSettle    : Nat
  tSlpout    : Nat
  tDispon    : Nat
  opcCaset   : Byte
  opcPaset   : Byte
  opcRamwr   : Byte
  opcRamrd   : Byte
  opcSlpout  : Byte
  opcDispon  : Byte
  cmdSet     : List Byte
  initTable  : List InitEntry
  scanOrder  : ScanOrder
  deriving DecidableEq, Repr, Inhabited

namespace Config

/-- Bits per pixel: "16, format RGB565, fixed" (R6). -/
def bpp : Nat := 16

/-- The six opcodes the framer itself issues (R7). -/
def ownOpcodes (c : Config) : List Byte :=
  [c.opcCaset, c.opcPaset, c.opcRamwr, c.opcRamrd, c.opcSlpout, c.opcDispon]

/-- A list of categories with each run of equal neighbours collapsed to one. -/
def runs : List Category → List Category
  | [] => []
  | [a] => [a]
  | a :: b :: rest => if a = b then runs (b :: rest) else a :: runs (b :: rest)

/-- `1 <= WIDTH, HEIGHT <= 65535` (R6, D22). -/
abbrev DimsOk (c : Config) : Prop :=
  1 ≤ c.width ∧ c.width ≤ 65535 ∧ 1 ≤ c.height ∧ c.height ≤ 65535

/-- The three control-line identifiers are pairwise distinct (R6, D22). -/
abbrev PinsOk (c : Config) : Prop :=
  c.pinCs ≠ c.pinDc ∧ c.pinCs ≠ c.pinRst ∧ c.pinDc ≠ c.pinRst

/-- `ROW_TIMEOUT < CMD_TIMEOUT` (R6). -/
abbrev TimeoutsOk (c : Config) : Prop := c.rowTimeout < c.cmdTimeout

/-- `T_RST_LOW`, `T_RST_HIGH` at least 10 ms and `T_SETTLE` at least 200 ms, in microseconds (R6, R246). -/
abbrev DelaysOk (c : Config) : Prop :=
  10000 ≤ c.tRstLow ∧ 10000 ≤ c.tRstHigh ∧ 200000 ≤ c.tSettle

/-- The six `OPC_*` are pairwise distinct members of `CMD_SET` (R7, D22). -/
abbrev OpcodesOk (c : Config) : Prop :=
  c.ownOpcodes.Nodup ∧ ∀ b ∈ c.ownOpcodes, b ∈ c.cmdSet

/-- `INIT_TABLE`: categories in the fixed order, each at least once and contiguous, every opcode in `CMD_SET`,
every argument list of length 0..65535 (R8, D31). -/
abbrev TableOk (c : Config) : Prop :=
  runs (c.initTable.map InitEntry.cat) = Category.inOrder ∧
    ∀ e ∈ c.initTable, e.opc ∈ c.cmdSet ∧ e.args.length ≤ 65535

/-- `SCAN_ORDER` is a one-to-one map onto each window's pixels (R66): a listed order names every pixel number of its
window once. -/
abbrev ScanOk (c : Config) : Prop :=
  ∀ e ∈ c.scanOrder.listed, e.order.Perm (List.range e.area)

/-- The constraints of R6, R7, R8 and R66 on the parameters, all together. -/
abbrev Valid (c : Config) : Prop :=
  c.DimsOk ∧ c.PinsOk ∧ c.TimeoutsOk ∧ c.DelaysOk ∧ c.OpcodesOk ∧ c.TableOk ∧ c.ScanOk

/-- The reference instance: configuration `T` of spec/95_test_vectors.md section 0, with values of the model's own
where `T` leaves a parameter symbolic. DESIGN CHOICE (log 1), the opcode numbers and the table PRESUMED (log 2).
No statement rests on it. -/
def reference : Config where
  width := 320
  height := 320
  busId := 0
  pinCs := 0
  pinDc := 1
  pinRst := 2
  baud := 0
  spiMode := .mode0
  bitOrder := .msbFirst
  busPins := 0
  pullMode := 0
  cmdTimeout := 1
  rowTimeout := 0
  tRstLow := 10000
  tRstHigh := 10000
  tSettle := 200000
  tSlpout := 0
  tDispon := 0
  opcCaset := 0x2A
  opcPaset := 0x2B
  opcRamwr := 0x2C
  opcRamrd := 0x2E
  opcSlpout := 0x11
  opcDispon := 0x29
  cmdSet := [0x10, 0x11, 0x28, 0x29, 0x2A, 0x2B, 0x2C, 0x2E, 0x36, 0x3A, 0xB0, 0xB1, 0xB6, 0xB7, 0xC0, 0xC5, 0xE0,
    0xE9]
  initTable :=
    [⟨.gamma, 0xE0, [0x00, 0x03, 0x09]⟩,
     ⟨.power, 0xC0, [0x17, 0x15]⟩,
     ⟨.vcom, 0xC5, [0x00, 0x12, 0x80]⟩,
     ⟨.memoryAccessControl, 0x36, [0x48]⟩,
     ⟨.pixelFormat, 0x3A, [0x55]⟩,
     ⟨.interfaceMode, 0xB0, [0x00]⟩,
     ⟨.frameRate, 0xB1, [0xA0]⟩,
     ⟨.displayFunction, 0xB6, [0x02, 0x02, 0x3B]⟩,
     ⟨.entryMode, 0xB7, [0xC6]⟩,
     ⟨.imageFunction, 0xE9, [0x00]⟩]
  scanOrder := ⟨false, false, false, []⟩

end Config

/-- The transport's answer to one `tx` (R39): a count of bytes, or an error. -/
inductive TxAnswer where
  | ok (n : Nat)
  | err
  deriving DecidableEq, Repr, Inhabited

/-- The transport's answer to `bus_setup` or `bus_close` (R39). -/
inductive BusAnswer where
  | ok
  | err
  deriving DecidableEq, Repr, Inhabited

/-! Free values: nothing in Lean can evaluate them or prove a value of them. Each is applied to the counter
`State.freeCount`, so that two draws need not agree. -/

/-- The answer of a `tx` past the end of the script (R39: "chosen by the transport and not constrained by anything in
this spec"; log 8). -/
opaque Config.freeTxAnswer : Nat → TxAnswer

/-- The answer of a `bus_setup` or `bus_close` past the end of the script (R39; log 8). -/
opaque Config.freeBusAnswer : Nat → BusAnswer

/-- How many bytes of a failed transfer reached the controller (R59, U1; log 17). -/
opaque Config.freePrefix : Nat → Nat

/-- 16-bit contents the spec leaves unspecified, by draw and by which element: the operand latches between requests
(R24; log 6) and the controller's bounds after a reset (U12, U15; log 16). -/
opaque Config.freeWord : Nat → Nat → Word16

/-- Byte lists the spec leaves unspecified: `ARGBUF` and `ROWBUF` between requests (R25; log 6), the controller's
pending parameters after the framer's own reset (U15; log 16). -/
opaque Config.freeBytes : Nat → Nat → List Byte

/-- Natural numbers the spec leaves unspecified: `UPC` between requests (R27; log 6), the controller's pixel counter
and pending operation after the framer's own reset (U15; log 16). -/
opaque Config.freeNat : Nat → Nat → Nat

end Sys2Proof
end

