-- ==== Sys2Proof/Machine/State.lean ====
section
/-! DEFINITION. The state of the machine as plain data (spec/10_state.md R20 to R41): the framer's registers,
latches and buffers, the ghost trace, the ports to the outside, and the reference controller behind the bus
(spec/20_memory.md R66); the reasons a step can stop; the state after reset. -/

namespace Sys2Proof.Machine

/-- `LSTATE`, the lifecycle (R22). Codes 5 to 7 are never held: the type has no term for them (log 23). -/
inductive LState where
  | uninitialized
  | busConfigured
  | resetSettled
  | registersProgrammed
  | active
  deriving DecidableEq, Repr, Inhabited

/-- `SESSION`, whether a bus session is held open between requests (R23). Code 3 is never held (log 23). -/
inductive Session where
  | closed
  | openWrite
  | openRead
  deriving DecidableEq, Repr, Inhabited

/-- `STATUS`, the result of the most recent request (R32, R200). Code 3 is never produced (log 23). -/
inductive Status where
  | ok
  | transportError
  | preconditionViolation
  deriving DecidableEq, Repr, Inhabited

/-- The three control lines (R4, R120). -/
inductive Line where
  | cs
  | dc
  | rst
  deriving DecidableEq, Repr, Inhabited

/-- One line register with its output enable (R28 to R31) and the mark R41 asks for: whether a `line` has written it
since the framer's reset (log 4). -/
structure LineReg where
  level   : Level
  oe      : Bool
  written : Bool
  deriving DecidableEq, Repr, Inhabited

/-- The two timeouts a transfer can carry (R38, R218). -/
inductive Timeout where
  | cmd
  | row
  deriving DecidableEq, Repr, Inhabited

/-- The five bring-up durations (R123). -/
inductive Delay where
  | rstLow
  | rstHigh
  | settle
  | slpout
  | dispon
  deriving DecidableEq, Repr, Inhabited

/-- The event alphabet of `TRACE` (R38). `SETUP`, `CLOSE` and `TX` record the transport's answer. -/
inductive Event where
  | mode (p : Line)
  | line (p : Line) (v : Level)
  | setup (a : BusAnswer)
  | close (a : BusAnswer)
  | tx (bytes : List Byte) (tmo : Timeout) (a : TxAnswer)
  | delay (d : Delay)
  deriving DecidableEq, Repr, Inhabited

/-- What the transport does about the next `tx`: it answers, or it has not answered yet (R122: "it blocks until the
transport answers"; log 9). -/
inductive TxReply where
  | answer (a : TxAnswer)
  | pending
  deriving DecidableEq, Repr, Inhabited

/-- What the transport does about the next `bus_setup` or `bus_close` (R124, R125; log 9). -/
inductive BusReply where
  | answer (a : BusAnswer)
  | pending
  deriving DecidableEq, Repr, Inhabited

/-- What the outside does to the framer, in order: present a packet on the request port (R80, R81), or apply the
framer's own reset (R240, R241). -/
inductive Input where
  | packet (bytes : List Byte)
  | ownReset
  deriving DecidableEq, Repr, Inhabited

/-- The operand latches, the framer's general registers (R24). -/
structure Latches where
  opr   : Byte
  cmd   : Byte
  narg  : Word16
  dir   : Dir
  x     : Word16
  y     : Word16
  w     : Word16
  h     : Word16
  x1    : Word16
  y1    : Word16
  x2    : Word16
  y2    : Word16
  color : Word16
  deriving DecidableEq, Repr, Inhabited

/-- A memory: (address, byte) pairs with strictly rising addresses; an unlisted address holds a byte that is not known
(log 18). -/
abbrev Memory := List Host.Cell

/-- The reference controller's current operation (R66): none, one of the three it knows, or any other. -/
inductive CtlOp where
  | none
  | caset
  | paset
  | ramwr
  | other
  deriving DecidableEq, Repr, Inhabited

/-- The reference controller (R37, R66): window bounds, the current operation with the parameter bytes it has not
consumed, the pixel counter and the frame memory. The framer cannot read any of it. -/
structure Controller where
  cx1    : Word16
  cx2    : Word16
  py1    : Word16
  py2    : Word16
  op     : CtlOp
  params : List Byte
  k      : Nat
  fb     : Memory
  deriving DecidableEq, Repr, Inhabited

/-- The whole state. The first group is the framer's (R20), `cfg` its parameters (R6; log 1), `trace` the ghost of R38;
then the ports (logs 8, 11, 22), the counter of the free values (log 6) and the controller behind the bus. -/
structure State where
  cfg       : Config
  lstate    : LState
  session   : Session
  cs        : LineReg
  dc        : LineReg
  rst       : LineReg
  status    : Status
  busy      : Bool
  upc       : Nat
  lat       : Latches
  argBuf    : List Byte
  rowBuf    : List Byte
  trace     : List Event
  responses : List Byte
  inputs    : List Input
  txScript  : List TxReply
  busScript : List BusReply
  freeCount : Nat
  ctl       : Controller
  deriving DecidableEq, Repr, Inhabited

/-- Why a step stops with a fault. Both are raised only by a step in a state that is in the middle of a request, and
only in states no run reaches: the spec gives those no behaviour. Safe (log 24). -/
inductive Fault where
  /-- `BUSY = 1` and the `OPR` latch holds none of the eight request opcodes, so there is no micro-program (R27, U10).
  Raised by `State.resume`. Safe. -/
  | noMicroProgram (opr : Byte)
  /-- `BUSY = 1` and `UPC` is greater than the length of the micro-program (R27). Raised by `State.resume`. Safe. -/
  | upcPastEnd (upc : Nat)
  deriving DecidableEq, Repr

/-- Why a step is refused. -/
inductive Refusal where
  /-- The instruction has no meaning in this model yet. Raised by no arm of `exec`: every request has its meaning.
  Safe. -/
  | notModelled (mnemonic : String)
  deriving DecidableEq, Repr

/-- A line register after the framer's own reset: not driven, its level unspecified (R40); the level 0 is a DESIGN
CHOICE (log 4). -/
def LineReg.reset : LineReg := ⟨false, false, false⟩

/-- The operand latches after reset: unspecified in the spec (R40), 0 by DESIGN CHOICE (log 5). -/
def Latches.reset : Latches where
  opr := 0
  cmd := 0
  narg := 0
  dir := .write
  x := 0
  y := 0
  w := 0
  h := 0
  x1 := 0
  y1 := 0
  x2 := 0
  y2 := 0
  color := 0

/-- The controller when the model starts: outside the framer and unspecified, 0 by DESIGN CHOICE, no pixel known
(logs 18, 21). -/
def Controller.reset : Controller where
  cx1 := 0
  cx2 := 0
  py1 := 0
  py2 := 0
  op := .none
  params := []
  k := 0
  fb := []

/-- The machine right after the framer's own reset (R40, R240): `LSTATE = UNINITIALIZED`, `SESSION = CLOSED`,
`STATUS = OK`, `BUSY = 0`, no line driven, `TRACE` empty. What R40 leaves unspecified has the value logs 4 and 5 name;
the parameters are the reference instance (log 1); the outside has presented nothing (log 22). -/
def State.reset : State where
  cfg := Config.reference
  lstate := .uninitialized
  session := .closed
  cs := LineReg.reset
  dc := LineReg.reset
  rst := LineReg.reset
  status := .ok
  busy := false
  upc := 0
  lat := Latches.reset
  argBuf := []
  rowBuf := []
  trace := []
  responses := []
  inputs := []
  txScript := []
  busScript := []
  freeCount := 0
  ctl := Controller.reset

end Sys2Proof.Machine
end

