-- ==== Sys2Proof/Machine/Memory.lean ====
section
/-! DEFINITION. Frame memory in one canonical form (log 18): strictly rising addresses; an unlisted address holds a
byte that is not known. It holds the controller's pixel memory (spec/20_memory.md R50 space S2, R66). -/

namespace Sys2Proof.Machine

/-- The canonical form: addresses strictly rising. No entry can equal what an unlisted address reads as, since that
is "not known". -/
abbrev Memory.wf (m : Memory) : Prop := m.Pairwise (fun a b => a.1 < b.1)

/-- The byte at an address, if it is known. -/
def Memory.read : Memory → Nat → Option Byte
  | [], _ => none
  | (b, v) :: rest, a => if a = b then some v else Memory.read rest a

/-- Store one byte, keeping the addresses strictly rising. -/
def Memory.write : Memory → Nat → Byte → Memory
  | [], a, v => [(a, v)]
  | (b, u) :: rest, a, v =>
    if a < b then (a, v) :: (b, u) :: rest
    else if a = b then (a, v) :: rest
    else (b, u) :: Memory.write rest a v

/-- The address of the first (high) byte of the pixel at a column and row; the low byte is one higher. Rows are 65536
pixels apart, so that no two pixels share a byte whatever the panel's width (log 18). -/
def pixelAddress (col row : Nat) : Nat := 2 * (row * 65536 + col)

end Sys2Proof.Machine
end

