-- ==== Sys2Proof/Machine/Controller.lean ====
section
/-! DEFINITION. The reference controller of spec/20_memory.md R66, which turns line levels and bytes into a window
and pixels. All of it is PRESUMED: the spec marks it as general knowledge (log 13). The framer never reads it. -/

namespace Sys2Proof.Machine

/-- How many columns the window has (R66 `cx2-cx1+1`); none if the bounds are inverted. -/
def Controller.columns (c : Controller) : Nat := c.cx2.toNat + 1 - c.cx1.toNat

/-- How many rows the window has (R66 `py2-py1+1`); none if the bounds are inverted. -/
def Controller.rows (c : Controller) : Nat := c.py2.toNat + 1 - c.py1.toNat

/-- The number of the pixel visited at position `k`: `k` itself, or what `SCAN_ORDER` lists for this window (R66; log
14). -/
def Controller.pixelNumber (o : ScanOrder) (c : Controller) (k : Nat) : Nat :=
  match o.listed.find? (fun e => e.x1 = c.cx1 ∧ e.y1 = c.py1 ∧ e.x2 = c.cx2 ∧ e.y2 = c.py2) with
  | some e => e.order.getD k k
  | none => k

/-- The column and row of the window's pixel number `k`: row-major, or along columns, each axis forwards or backwards
(log 14). -/
def Controller.locate (o : ScanOrder) (c : Controller) (k : Nat) : Nat × Nat :=
  let i := if o.alongColumn then k / c.rows else k % c.columns
  let j := if o.alongColumn then k % c.rows else k / c.columns
  (if o.flipX then c.cx2.toNat - i else c.cx1.toNat + i,
   if o.flipY then c.py2.toNat - j else c.py1.toNat + j)

/-- `ORDER(k)` (R66): any one-to-one map onto the window's pixels that `SCAN_ORDER` gives; row-major by default. -/
def Controller.order (o : ScanOrder) (c : Controller) (k : Nat) : Nat × Nat := c.locate o (c.pixelNumber o k)

/-- The pixel at a column and row, if both its bytes are known. -/
def Controller.pixel (c : Controller) (col row : Nat) : Option Word16 :=
  match c.fb.read (pixelAddress col row), c.fb.read (pixelAddress col row + 1) with
  | some h, some l => some (word16 h l)
  | _, _ => none

/-- One more complete pixel of a memory-write: stored at `ORDER(k)`, wherever the window lies, and `k` incremented
(R66). When `k` has reached the window's area R66 models nothing and U8 allows "any value for the affected pixels"; which
pixels those are is open, so all of them become unknown: DESIGN CHOICE (log 15). -/
def Controller.storePixel (g : Config) (c : Controller) (h l : Byte) : Controller :=
  let p := c.order g.scanOrder c.k
  if c.k < c.columns * c.rows then
    { c with
      k := c.k + 1
      fb := (c.fb.write (pixelAddress p.1 p.2) h).write (pixelAddress p.1 p.2 + 1) l }
  else { c with k := c.k + 1, fb := [] }

/-- A byte transferred with `DC = 0`: an opcode, which abandons any unfinished operation, a half pixel with it (log 15), and
begins a new one (R66).
Opcodes other than the three it knows have no effect on the window or `FB` (U13; log 15). -/
def Controller.opcode (g : Config) (c : Controller) (b : Byte) : Controller :=
  if b = g.opcCaset then { c with op := .caset, params := [] }
  else if b = g.opcPaset then { c with op := .paset, params := [] }
  else if b = g.opcRamwr then { c with op := .ramwr, params := [], k := 0 }
  else { c with op := .other, params := [] }

/-- A byte transferred with `DC = 1`: the next parameter of the current operation (R66). DESIGN CHOICE (log 15): a
parameter byte after the fourth of `OPC_CASET` or `OPC_PASET`, and one that arrives with no operation under way, is
ignored and the bounds stay; R66 says nothing of either. -/
def Controller.param (g : Config) (c : Controller) (b : Byte) : Controller :=
  match c.op with
  | .caset =>
    match c.params with
    | [p0, p1, p2] => { c with cx1 := word16 p0 p1, cx2 := word16 p2 b, params := [p0, p1, p2, b] }
    | ps => if ps.length < 3 then { c with params := ps ++ [b] } else c
  | .paset =>
    match c.params with
    | [p0, p1, p2] => { c with py1 := word16 p0 p1, py2 := word16 p2 b, params := [p0, p1, p2, b] }
    | ps => if ps.length < 3 then { c with params := ps ++ [b] } else c
  | .ramwr =>
    match c.params with
    | h :: _ => { c.storePixel g h b with params := [] }
    | [] => { c with params := [b] }
  | .none => c
  | .other => c

/-- Bytes arriving while the lines have these levels: the controller listens only while `CS = 0` (R66). -/
def Controller.receive (g : Config) (cs dc : Level) (bytes : List Byte) (c : Controller) : Controller :=
  if cs then c else bytes.foldl (fun c b => if dc then c.param g b else c.opcode g b) c

/-- `CS` going to 1 ends the operation and discards a dangling half pixel, so that its pixel keeps the value it had (R66).
DESIGN CHOICE (log 15): R56 puts half a pixel outside the spec and U8 allows any value for the affected pixel; the model
follows R66. -/
def Controller.deselect (c : Controller) : Controller := { c with op := .none, params := [] }

/-- The controller when nothing is known of it (R37, U12, U15): bounds, operation, pending parameters and counter are
free values, and no pixel is known (log 16). -/
def Controller.unknown (n : Nat) : Controller where
  cx1 := Config.freeWord n 20
  cx2 := Config.freeWord n 21
  py1 := Config.freeWord n 22
  py2 := Config.freeWord n 23
  op := match Config.freeNat n 1 % 5 with
    | 0 => .none
    | 1 => .caset
    | 2 => .paset
    | 3 => .ramwr
    | _ => .other
  params := Config.freeBytes n 2
  k := Config.freeNat n 2
  fb := []

/-- The controller once its reset line is low: whatever it had half-received is cleared (R241), so no operation and no
pending parameter is left; its bounds and counter are free values and no pixel is known (U12; log 16). -/
def Controller.pulsed (n : Nat) : Controller := { Controller.unknown n with op := .none, params := [] }

end Sys2Proof.Machine
end

