-- ==== Sys2Proof/Machine/Flags.lean ====
section
/-! DEFINITION. Codes and modes: the numeric codes of `LSTATE`, `SESSION`, `STATUS` and `DIR` (spec/10_state.md R22
to R24, R32), the response byte (spec/30_encoding.md R103), and admission by `LSTATE` and `SESSION`, which play the
part of privilege modes (spec/60_exceptions.md R215). -/

namespace Sys2Proof.Machine

/-- The 3-bit code of `LSTATE` (R22). -/
def LState.code : LState → BitVec 3
  | .uninitialized => 0
  | .busConfigured => 1
  | .resetSettled => 2
  | .registersProgrammed => 3
  | .active => 4

/-- The 2-bit code of `SESSION` (R23). -/
def Session.code : Session → BitVec 2
  | .closed => 0
  | .openWrite => 1
  | .openRead => 2

/-- The 2-bit code of `STATUS` (R32, R200). -/
def Status.code : Status → BitVec 2
  | .ok => 0
  | .transportError => 1
  | .preconditionViolation => 2

/-- The 1-bit code of `DIR` (R24). -/
def dirCode : Dir → BitVec 1
  | .write => 0
  | .read => 1

/-- The response byte: `0x00`, `0x01` or `0x02` (R103). -/
def Status.byte (st : Status) : Byte := st.code.setWidth 8

/-- The session a successful SET_WINDOW opens (R151). -/
def Session.ofDir : Dir → Session
  | .write => .openWrite
  | .read => .openRead

/-- `LSTATE = ACTIVE` and `SESSION = CLOSED`: the mode in which every drawing and command request is admitted (R217). -/
def State.commandMode (s : State) : Bool := s.lstate = .active && s.session = .closed

/-- The admission table (R215), row by row. INITIALIZE's row says `SESSION` is `CLOSED` "(implied)" and its pseudocode
does not test it (R180; log 27). -/
def requestAdmitted (i : Instr) (s : State) : Bool :=
  match i with
  | .initialise => s.lstate = .uninitialized
  | .cleanup => s.lstate ≠ .uninitialized && s.session = .closed
  | .sendBare _ => s.commandMode
  | .send _ _ => s.commandMode
  | .setWindow _ _ _ _ _ => s.commandMode
  | .stream _ => s.session = .openWrite
  | .endSession => s.session ≠ .closed
  | .fillRect _ _ _ _ _ => s.commandMode

end Sys2Proof.Machine
end

