-- ==== Sys2Proof/Machine/Operands.lean ====
section
/-! DEFINITION. Operand checks (spec/60_exceptions.md R216), the clip arithmetic and the row of FILL_RECT
(spec/43_raster_filler.md R166 to R168), window argument bytes (spec/30_encoding.md R99), colour constants (R102),
and the parameters behind delays and timeouts. -/

namespace Sys2Proof.Machine

/-- `CMD` in `CMD_SET` (R216). -/
def commandKnown (c : Config) (cmd : Byte) : Bool := c.cmdSet.contains cmd

/-- The region check: `X1 <= X2 <= WIDTH - 1` and `Y1 <= Y2 <= HEIGHT - 1`, compared as integers (R150, R216). -/
def regionLegal (c : Config) (x1 y1 x2 y2 : Word16) : Bool :=
  decide (x1.toNat ≤ x2.toNat ∧ (x2.toNat : Int) ≤ c.width - 1 ∧
    y1.toNat ≤ y2.toNat ∧ (y2.toNat : Int) ≤ c.height - 1)

/-- `NARG >= 1` (R160, R216). -/
def dataPresent (data : List Byte) : Bool := decide (1 ≤ data.length)

/-- The operand checks of every request (R216). `DIR` is legal by its type (log 20). -/
def operandsLegal (c : Config) : Instr → Bool
  | .initialise => true
  | .cleanup => true
  | .sendBare cmd => commandKnown c cmd
  | .send cmd _ => commandKnown c cmd
  | .setWindow _ x1 y1 x2 y2 => regionLegal c x1 y1 x2 y2
  | .stream data => dataPresent data
  | .endSession => true
  | .fillRect _ _ _ _ _ => true

/-- One bound of the clip: `min(limit - 1, start + size - 1)` over the mathematical integers (R166 step 2, R167). -/
def clipBound (limit : Nat) (start size : Word16) : Int :=
  min ((limit : Int) - 1) ((start.toNat : Int) + size.toNat - 1)

/-- FILL_RECT steps 1 and 2: nothing to draw, or the lower right corner `(x2, y2)` of the clipped rectangle (R166). -/
def clip (c : Config) (x y w h : Word16) : Option (Word16 × Word16) :=
  if c.width ≤ x.toNat ∨ c.height ≤ y.toNat then none
  else if clipBound c.width x w < x.toNat ∨ clipBound c.height y h < y.toNat then none
  else some (BitVec.ofInt 16 (clipBound c.width x w), BitVec.ofInt 16 (clipBound c.height y h))

/-- `b - a + 1` for an inclusive range (R166, R167). -/
def span (a b : Word16) : Nat := b.toNat - a.toNat + 1

/-- `rep(k, bs)` (R10). -/
def rep (k : Nat) (bs : List Byte) : List Byte := (List.replicate k bs).flatten

/-- `ROWBUF`: one row's worth of repeated colour bytes, high byte then low byte (R168, R99). -/
def rowBytes (x1 x2 color : Word16) : List Byte := rep (span x1 x2) (be16 color)

/-- The four bytes of a window argument frame (R99, R52). -/
def boundBytes (a b : Word16) : List Byte := be16 a ++ be16 b

/-- The nine colour names (R102; C2). -/
inductive Color where
  | white | black | red | green | blue | yellow | cyan | magenta | gray
  deriving DecidableEq, Repr

/-- The exact bit patterns of the colour names (R102). -/
def Color.value : Color → Word16
  | .white => 0xFFFF
  | .black => 0x0000
  | .red => 0b1111100000000000
  | .green => 0b0000011111100000
  | .blue => 0b0000000000011111
  | .yellow => 0b1111111111100000
  | .cyan => 0b0000011111111111
  | .magenta => 0b1111100000011111
  | .gray => 0b1000010000010000

/-- The duration parameter of a delay, in microseconds (R123; log 3). -/
def Delay.duration (c : Config) : Delay → Nat
  | .rstLow => c.tRstLow
  | .rstHigh => c.tRstHigh
  | .settle => c.tSettle
  | .slpout => c.tSlpout
  | .dispon => c.tDispon

/-- The timeout parameter of a transfer (R218). -/
def Timeout.value (c : Config) : Timeout → Nat
  | .cmd => c.cmdTimeout
  | .row => c.rowTimeout

/-- The pin identifier of a line (R120). -/
def Line.pinId (c : Config) : Line → Nat
  | .cs => c.pinCs
  | .dc => c.pinDc
  | .rst => c.pinRst

/-- A call on one of the two collaborator ports, or the passing of time (R120 to R125, R219, R220). -/
inductive PortCall where
  /-- `set_output_mode(pin)` -/
  | setOutputMode (pin : Nat)
  /-- `write(pin, level)` -/
  | write (pin : Nat) (level : Level)
  /-- `setup(bus_id, mode, baud, bit_order, pins, pull_mode)` -/
  | setup (busId : Nat) (mode : SpiMode) (baud : Nat) (bitOrder : BitOrder) (pins pullMode : Nat)
  /-- `close(bus_id)` -/
  | close (busId : Nat)
  /-- `send(bus_id, bytes, timeout)` -/
  | send (busId : Nat) (bytes : List Byte) (timeout : Nat)
  /-- at least this long passes -/
  | wait (duration : Nat)
  deriving DecidableEq, Repr

/-- The port call each event of the trace stands for (R120 to R125). -/
def Event.portCall (c : Config) : Event → PortCall
  | .mode p => .setOutputMode (p.pinId c)
  | .line p v => .write (p.pinId c) v
  | .setup _ => .setup c.busId c.spiMode c.baud c.bitOrder c.busPins c.pullMode
  | .close _ => .close c.busId
  | .tx bytes tmo _ => .send c.busId bytes (tmo.value c)
  | .delay d => .wait (d.duration c)

end Sys2Proof.Machine
end

