-- ==== Sys2Proof/Machine/Ops.lean ====
section
/-! DEFINITION. The named operations on the state: the line registers, the trace, the transport's answers, the six
micro-operations (spec/40_micro_operations.md R120 to R125), acceptance and response (spec/30_encoding.md R81, R82,
R103), the two error paths (spec/60_exceptions.md R203, R204) and the framer's own reset
(spec/70_reset_and_hazards.md R240, R241). -/

namespace Sys2Proof.Machine

/-- The register of a line (R28 to R31). -/
def State.lineReg (s : State) : Line → LineReg
  | .cs => s.cs
  | .dc => s.dc
  | .rst => s.rst

/-- Replace the register of a line. -/
def State.setLineReg (s : State) (p : Line) (r : LineReg) : State :=
  match p with
  | .cs => { s with cs := r }
  | .dc => { s with dc := r }
  | .rst => { s with rst := r }

/-- The level the framer drives on a line, if it drives one: none while `OE_p = 0` (R31) and none between `mode` and the
first `line` since the framer's own reset (U4, R121; log 4). DESIGN CHOICE (log 4): in a later INITIALIZE the line keeps its
last written level between `mode` and `line`, as R131 says of an output, where R121 and U4 may be read to leave it open. -/
def State.pin (s : State) (p : Line) : Option Level :=
  if (s.lineReg p).oe && (s.lineReg p).written then some (s.lineReg p).level else none

/-- Append one event to the trace (R38). -/
def State.emit (e : Event) (s : State) : State := { s with trace := s.trace ++ [e] }

/-! ### The controller at the other end of the lines (log 13) -/

/-- The controller is reset by its reset line (R30, R241; log 16). -/
def State.pulseController (s : State) : State :=
  { s with ctl := Controller.pulsed s.freeCount, freeCount := s.freeCount + 1 }

/-- What a line write does to the controller: `CS` to 1 ends its operation (R66), `RST` to 0 resets it (R30, R241; log 16). -/
def State.controllerSees (p : Line) (v : Level) (s : State) : State :=
  match p, v with
  | .cs, true => { s with ctl := s.ctl.deselect }
  | .cs, false => s
  | .dc, _ => s
  | .rst, true => s
  | .rst, false => s.pulseController

/-- Bytes that reached the controller at the present line levels (R61). -/
def State.deliver (bytes : List Byte) (s : State) : State :=
  { s with ctl := s.ctl.receive s.cfg s.cs.level s.dc.level bytes }

/-- A failed transfer: any prefix may have reached the controller (R59, U1; log 17). -/
def State.deliverPrefix (bytes : List Byte) (s : State) : State :=
  { s.deliver (bytes.take (Config.freePrefix s.freeCount)) with freeCount := s.freeCount + 1 }

/-! ### The transport's answers (R39; logs 8, 9) -/

/-- The reply to the next `tx`: the head of the script, or past its end a free answer. -/
def State.nextTx (s : State) : TxReply × State :=
  match s.txScript with
  | r :: rest => (r, { s with txScript := rest })
  | [] => (.answer (Config.freeTxAnswer s.freeCount), { s with freeCount := s.freeCount + 1 })

/-- The reply to the next `bus_setup` or `bus_close`. -/
def State.nextBus (s : State) : BusReply × State :=
  match s.busScript with
  | r :: rest => (r, { s with busScript := rest })
  | [] => (.answer (Config.freeBusAnswer s.freeCount), { s with freeCount := s.freeCount + 1 })

/-! ### The six micro-operations -/

/-- How a micro-operation ends: it completes, it raises `TransportError`, or the transport has not answered yet. -/
inductive OpResult where
  | completed (s : State)
  | raised (s : State)
  | blocked (s : State)
  deriving DecidableEq, Repr

/-- `line(p, v)` (R120): unconditional, cannot fail. -/
def State.line (p : Line) (v : Level) (s : State) : State :=
  ((s.setLineReg p { s.lineReg p with level := v, written := true }).controllerSees p v).emit (.line p v)

/-- `mode(p)` (R121): the line becomes an output, its register is not written and its mark not cleared (DESIGN CHOICE for
a repeated INITIALIZE, log 4). -/
def State.mode (p : Line) (s : State) : State :=
  (s.setLineReg p { s.lineReg p with oe := true }).emit (.mode p)

/-- `delay(t)` (R123): an event, and a promise of a lower bound (log 26). -/
def State.delay (d : Delay) (s : State) : State := s.emit (.delay d)

/-- Where the bytes of a `tx` come from: named by the pseudocode, or read from a buffer (R25). -/
inductive TxSource where
  | bytes (bs : List Byte)
  | argBuf
  | rowBuf
  deriving DecidableEq, Repr

/-- The bytes themselves: `ARGBUF[0 .. NARG-1]` (R140, R160), `ROWBUF` whole (R166). -/
def TxSource.read (s : State) : TxSource → List Byte
  | .bytes bs => bs
  | .argBuf => s.argBuf.take s.lat.narg.toNat
  | .rowBuf => s.rowBuf

/-- `tx(bytes, tmo)` (R122): success is the answer `ok(n)` with `n = len(bytes)` and nothing else (R59). -/
def State.tx (bytes : List Byte) (tmo : Timeout) (s : State) : OpResult :=
  match s.nextTx with
  | (.pending, t) => .blocked t
  | (.answer a, t) =>
    if a = .ok bytes.length then .completed ((t.deliver bytes).emit (.tx bytes tmo a))
    else .raised ((t.deliverPrefix bytes).emit (.tx bytes tmo a))

/-- `bus_setup()` (R124). -/
def State.busSetup (s : State) : OpResult :=
  match s.nextBus with
  | (.pending, t) => .blocked t
  | (.answer .ok, t) => .completed (t.emit (.setup .ok))
  | (.answer .err, t) => .raised (t.emit (.setup .err))

/-- `bus_close()` (R125). -/
def State.busClose (s : State) : OpResult :=
  match s.nextBus with
  | (.pending, t) => .blocked t
  | (.answer .ok, t) => .completed (t.emit (.close .ok))
  | (.answer .err, t) => .raised (t.emit (.close .err))

/-! ### Acceptance and response -/

/-- The operand latches between requests: unspecified (R24; log 6). -/
def Latches.unspecified (n : Nat) : Latches where
  opr := lo (Config.freeWord n 0)
  cmd := lo (Config.freeWord n 1)
  narg := Config.freeWord n 2
  dir := if Config.freeWord n 3 = 0 then .write else .read
  x := Config.freeWord n 4
  y := Config.freeWord n 5
  w := Config.freeWord n 6
  h := Config.freeWord n 7
  x1 := Config.freeWord n 8
  y1 := Config.freeWord n 9
  x2 := Config.freeWord n 10
  y2 := Config.freeWord n 11
  color := Config.freeWord n 12

/-- Acceptance of a request that will run (R81, R82, R27): `BUSY <- 1`, `UPC <- 0`, the packet latched. -/
def State.accept (lat : Latches) (buf : List Byte) (s : State) : State :=
  { s with busy := true, upc := 0, lat := lat, argBuf := buf }

/-- A response (R32, R103): `STATUS` written, the same value on the response port, `BUSY <- 0`. -/
def State.answer (st : Status) (s : State) : State :=
  { s with status := st, busy := false, responses := s.responses ++ [st.byte] }

/-- Latches, buffers and `UPC` are dead and unspecified from the response on (R24, R25, R27; log 6). -/
def State.forgetTransients (s : State) : State :=
  { s with
    upc := Config.freeNat s.freeCount 0
    lat := Latches.unspecified s.freeCount
    argBuf := Config.freeBytes s.freeCount 0
    rowBuf := Config.freeBytes s.freeCount 1
    freeCount := s.freeCount + 1 }

/-- `respond(s)` at the end of a request that ran micro-operations (R11). -/
def State.respond (st : Status) (s : State) : State := (s.answer st).forgetTransients

/-- The refusal path (R203): `STATUS <- PRECONDITION_VIOLATION`, `BUSY <- 0`, nothing else (log 7). -/
def State.refuse (s : State) : State := s.answer .preconditionViolation

/-- The abort path (R204), taken on a `TransportError` from `tx` or `bus_setup`: release chip-select if it is
asserted, close the session, respond. -/
def State.abort (s : State) : State :=
  let t := if s.cs.level then s else s.line .cs true
  ({ t with session := .closed }).respond .transportError

/-- The gate every request passes (R210): admission, then operand checks, then what the request does; otherwise the
refusal path. -/
def State.gate (i : Instr) (s : State) (act : State) : State :=
  if requestAdmitted i s && operandsLegal s.cfg i then act else s.refuse

/-! ### The framer's own reset -/

/-- The framer's own reset, at any moment (R240, R241): the reset values of R40, whatever the state was. The parameters
keep their values (R21), the outside keeps what it has ready, and nothing is known of the controller (log 12). -/
def State.ownReset (s : State) : State :=
  { State.reset with
    cfg := s.cfg
    inputs := s.inputs
    txScript := s.txScript
    busScript := s.busScript
    freeCount := s.freeCount + 1
    ctl := Controller.unknown s.freeCount }

/-! ### What comes next -/

/-- What the framer does next, given what the outside has presented (R81, R240; log 11). -/
inductive Next where
  /-- the framer's own reset strikes, at any moment -/
  | strike (s : State)
  /-- a request is running: it goes on -/
  | carryOn
  /-- idle and a packet is presented: it is accepted; `s` no longer holds it at the port -/
  | take (packet : List Byte) (s : State)
  /-- idle with nothing presented -/
  | wait
  deriving DecidableEq, Repr

/-- A packet is accepted only while `BUSY = 0` and is otherwise held at the port, unchanged (R81). -/
def State.nextAction (s : State) : Next :=
  match s.inputs with
  | .ownReset :: rest => .strike { s with inputs := rest }
  | .packet p :: rest => if s.busy then .carryOn else .take p { s with inputs := rest }
  | [] => if s.busy then .carryOn else .wait

end Sys2Proof.Machine
end

