-- ==== Sys2Proof/Machine/Micro.lean ====
section
/-! DEFINITION. Micro-programs and their execution (spec/40_micro_operations.md R126, R127): a micro-operation with
the register writes placed directly after it, one step of it, the list run in order, and the two framing procedures
`frame` (spec/41_command_encoder.md R142) and `window` (spec/42_region_addressor.md R151). -/

namespace Sys2Proof.Machine

/-- The six micro-operations with their operands (R120 to R125). -/
inductive MicroOp where
  | mode (p : Line)
  | line (p : Line) (v : Level)
  | tx (src : TxSource) (tmo : Timeout)
  | delay (d : Delay)
  | busSetup
  | busClose
  deriving DecidableEq, Repr

/-- A register write of the pseudocode. -/
inductive RegWrite where
  | lstate (v : LState)
  | session (v : Session)
  | rowBuf (v : List Byte)
  deriving DecidableEq, Repr

/-- One step of a micro-program: one micro-operation together with the register writes directly after it (R126). -/
structure Micro where
  op     : MicroOp
  writes : List RegWrite
  deriving DecidableEq, Repr

/-- Run one micro-operation. -/
def MicroOp.run (s : State) : MicroOp → OpResult
  | .mode p => .completed (s.mode p)
  | .line p v => .completed (s.line p v)
  | .tx src tmo => s.tx (src.read s) tmo
  | .delay d => .completed (s.delay d)
  | .busSetup => s.busSetup
  | .busClose => s.busClose

/-- One register write. -/
def State.write (s : State) : RegWrite → State
  | .lstate v => { s with lstate := v }
  | .session v => { s with session := v }
  | .rowBuf v => { s with rowBuf := v }

/-- Register writes, in order. -/
def State.writeAll (ws : List RegWrite) (s : State) : State := ws.foldl State.write s

/-- `UPC <- UPC + 1` (R27). -/
def State.advance (s : State) : State := { s with upc := s.upc + 1 }

/-- What raising `TransportError` leads to. A failing `bus_close` finishes its register writes and turns the response
into `TRANSPORT_ERROR` (R125, R186, C11); everything else goes to the abort path (R204). -/
def Micro.onError (m : Micro) (s : State) : State :=
  match m.op with
  | .busClose => (s.writeAll m.writes).respond .transportError
  | .mode _ => s.abort
  | .line _ _ => s.abort
  | .tx _ _ => s.abort
  | .delay _ => s.abort
  | .busSetup => s.abort

/-- How far a micro-program has come: still running, ended by an error and answered, or waiting for the transport. -/
inductive Progress where
  | running (s : State)
  | ended (s : State)
  | blocked (s : State)
  deriving DecidableEq, Repr

/-- One step of the framer (R126). -/
def Micro.perform (m : Micro) (s : State) : Progress :=
  match m.op.run s with
  | .completed t => .running (t.writeAll m.writes).advance
  | .raised t => .ended (m.onError t)
  | .blocked t => .blocked t

/-- Run a list of micro-operations in order, until one raises or waits. -/
def runSeq : List Micro → State → Progress
  | [], s => .running s
  | m :: ms, s =>
    match m.perform s with
    | .running t => runSeq ms t
    | .ended t => .ended t
    | .blocked t => .blocked t

/-- "After the last step the request responds `OK`" (R126). -/
def Progress.finish : Progress → State
  | .running s => s.respond .ok
  | .ended s => s
  | .blocked s => s

/-- Run a micro-program to the request's response, or until the transport keeps it waiting. -/
def runMicros (ms : List Micro) (s : State) : State := (runSeq ms s).finish

/-- A micro-operation with no register write after it. -/
def plain (op : MicroOp) : Micro := ⟨op, []⟩

/-- Place a register write directly after the last micro-operation of a list (R126). -/
def thenWrite (w : RegWrite) : List Micro → List Micro
  | [] => []
  | [m] => [⟨m.op, m.writes ++ [w]⟩]
  | m :: n :: ms => m :: thenWrite w (n :: ms)

/-- The argument part of `frame`: nothing, or `DC` high and the argument frame (R142). -/
def frameArgs : Option TxSource → List Micro
  | none => []
  | some src => [plain (.line .dc true), plain (.tx src .cmd)]

/-- Procedure `frame(cmd, args)` (R142). `args` is none when the argument list is empty. -/
def frame (cmd : Byte) (args : Option TxSource) : List Micro :=
  [plain (.line .cs false), plain (.line .dc false), plain (.tx (.bytes [cmd]) .cmd)]
    ++ frameArgs args ++ [plain (.line .cs true)]

/-- The opening byte of the third command of a window frame (R151, R154). -/
def openingOpcode (c : Config) : Dir → Byte
  | .write => c.opcRamwr
  | .read => c.opcRamrd

/-- Procedure `window(x1, y1, x2, y2, dir)` (R151): one session, three commands, left open. -/
def window (c : Config) (x1 y1 x2 y2 : Word16) (dir : Dir) : List Micro :=
  thenWrite (.session (Session.ofDir dir))
    [plain (.line .cs false),
     plain (.line .dc false),
     plain (.tx (.bytes [c.opcCaset]) .cmd),
     plain (.line .dc true),
     plain (.tx (.bytes (boundBytes x1 x2)) .cmd),
     plain (.line .dc false),
     plain (.tx (.bytes [c.opcPaset]) .cmd),
     plain (.line .dc true),
     plain (.tx (.bytes (boundBytes y1 y2)) .cmd),
     plain (.line .dc false),
     plain (.tx (.bytes [openingOpcode c dir]) .cmd),
     plain (.line .dc true)]

end Sys2Proof.Machine
end

