-- ==== Sys2Proof/Machine/Bringup.lean ====
section
/-! DEFINITION. The Bring-up Sequencer: INITIALIZE and CLEANUP (spec/44_bringup.md R180 to R190). -/

namespace Sys2Proof.Machine

/-- Step (a): the three lines become outputs, then chip-select, reset and command/data-select go high (R181). -/
def bringupLines : List Micro :=
  [plain (.mode .cs), plain (.mode .dc), plain (.mode .rst),
   plain (.line .cs true), plain (.line .rst true), plain (.line .dc true)]

/-- Step (b): the bus is set up (R182). -/
def bringupBus : List Micro := thenWrite (.lstate .busConfigured) [plain .busSetup]

/-- Step (c): the reset pulse and the settling time (R183). -/
def bringupReset : List Micro :=
  [plain (.line .rst false), plain (.delay .rstLow), plain (.line .rst true), plain (.delay .rstHigh),
   plain (.delay .settle)]

/-- The frame of one entry of `INIT_TABLE` (R184). -/
def entryFrame (e : InitEntry) : List Micro :=
  frame e.opc (if e.args = [] then none else some (.bytes e.args))

/-- Step (d): one frame per entry, in list order (R184). -/
def bringupTable (c : Config) : List Micro := c.initTable.flatMap entryFrame

/-- Step (e): sleep-out, then display-on, each with its settling delay (R185). -/
def bringupDisplay (c : Config) : List Micro :=
  frame c.opcSlpout none ++ [plain (.delay .slpout)] ++ frame c.opcDispon none ++ [plain (.delay .dispon)]

/-- The micro-program of INITIALIZE (R180). The writes of `LSTATE` stand where the pseudocode has them: each after the
last micro-operation before it. -/
def initialiseProgram (c : Config) : List Micro :=
  bringupLines ++ bringupBus
    ++ thenWrite (.lstate .registersProgrammed)
        (thenWrite (.lstate .resetSettled) bringupReset ++ bringupTable c)
    ++ thenWrite (.lstate .active) (bringupDisplay c)

/-- The micro-program of CLEANUP: close the bus, `LSTATE <- UNINITIALIZED` whatever the answer (R186). -/
def cleanupProgram : List Micro := [⟨.busClose, [.lstate .uninitialized]⟩]

/-- The latches an INITIALIZE loads (R24, R82). -/
def Latches.ofInitialise (lat : Latches) : Latches := { lat with opr := opInitialise }

/-- The latches a CLEANUP loads (R24, R82). -/
def Latches.ofCleanup (lat : Latches) : Latches := { lat with opr := opCleanup }

/-- INITIALIZE (R180). -/
def execInitialise (s : State) : Host.Outcome State Fault Refusal :=
  .next (s.gate .initialise (runMicros (initialiseProgram s.cfg) (s.accept s.lat.ofInitialise s.argBuf)))

/-- CLEANUP (R186). -/
def execCleanup (s : State) : Host.Outcome State Fault Refusal :=
  .next (s.gate .cleanup (runMicros cleanupProgram (s.accept s.lat.ofCleanup s.argBuf)))

end Sys2Proof.Machine
end

