-- ==== Sys2Proof/Machine/Encoder.lean ====
section
/-! DEFINITION. The Command Encoder: SEND and SEND_BARE (spec/41_command_encoder.md R140 to R144). -/

namespace Sys2Proof.Machine

/-- The micro-program of SEND, from the latched operands (R140): the argument frame is there only if `NARG > 0`. -/
def sendProgram (lat : Latches) : List Micro :=
  frame lat.cmd (if lat.narg = 0 then none else some .argBuf)

/-- The micro-program of SEND_BARE (R141). -/
def sendBareProgram (lat : Latches) : List Micro := frame lat.cmd none

/-- The latches a SEND loads (R24, R82). -/
def Latches.ofSend (cmd : Byte) (args : List Byte) (lat : Latches) : Latches :=
  { lat with opr := opSend, cmd := cmd, narg := BitVec.ofNat 16 args.length }

/-- The latches a SEND_BARE loads (R24, R82). -/
def Latches.ofSendBare (cmd : Byte) (lat : Latches) : Latches := { lat with opr := opSendBare, cmd := cmd }

/-- SEND (R140). -/
def execSend (cmd : Byte) (args : List Byte) (s : State) : Host.Outcome State Fault Refusal :=
  .next (s.gate (.send cmd args)
    (runMicros (sendProgram (s.lat.ofSend cmd args)) (s.accept (s.lat.ofSend cmd args) args)))

/-- SEND_BARE, "the zero-argument case" of SEND (R141). -/
def execSendBare (cmd : Byte) (s : State) : Host.Outcome State Fault Refusal :=
  .next (s.gate (.sendBare cmd)
    (runMicros (sendBareProgram (s.lat.ofSendBare cmd)) (s.accept (s.lat.ofSendBare cmd) s.argBuf)))

end Sys2Proof.Machine
end

