-- ==== Sys2Proof/Machine/Filler.lean ====
section
/-! DEFINITION. The Raster Filler: STREAM, END_SESSION and FILL_RECT (spec/43_raster_filler.md R160 to R172). -/

namespace Sys2Proof.Machine

/-- The micro-program of STREAM: one row transfer of the data bytes (R160). -/
def streamProgram : List Micro := [plain (.tx .argBuf .row)]

/-- The micro-program of END_SESSION: release chip-select once, close the session (R163). -/
def endSessionProgram : List Micro := [⟨.line .cs true, [.session .closed]⟩]

/-- The micro-program of a FILL_RECT that draws, from the latched operands and the clipped region in `X1, Y1, X2, Y2`
(R166 steps 3 to 6): the window frame, then `ROWBUF` built, one row transfer per row, chip-select released. -/
def fillProgram (c : Config) (lat : Latches) : List Micro :=
  thenWrite (.rowBuf (rowBytes lat.x1 lat.x2 lat.color)) (window c lat.x1 lat.y1 lat.x2 lat.y2 .write)
    ++ List.replicate (span lat.y1 lat.y2) (plain (.tx .rowBuf .row))
    ++ endSessionProgram

/-- The latches a STREAM loads (R24, R82). -/
def Latches.ofStream (data : List Byte) (lat : Latches) : Latches :=
  { lat with opr := opStream, narg := BitVec.ofNat 16 data.length }

/-- The latches an END_SESSION loads (R24, R82). -/
def Latches.ofEndSession (lat : Latches) : Latches := { lat with opr := opEndSession }

/-- The latches of a FILL_RECT that draws: its operands, and the clipped region in `X1, Y1, X2, Y2` (R24, R166). -/
def Latches.ofFillRect (x y w h color x2 y2 : Word16) (lat : Latches) : Latches :=
  { lat with
    opr := opFillRect, x := x, y := y, w := w, h := h, color := color, x1 := x, y1 := y, x2 := x2, y2 := y2 }

/-- STREAM (R160). -/
def execStream (data : List Byte) (s : State) : Host.Outcome State Fault Refusal :=
  .next (s.gate (.stream data) (runMicros streamProgram (s.accept (s.lat.ofStream data) data)))

/-- END_SESSION (R163). -/
def execEndSession (s : State) : Host.Outcome State Fault Refusal :=
  .next (s.gate .endSession (runMicros endSessionProgram (s.accept s.lat.ofEndSession s.argBuf)))

/-- The part of FILL_RECT behind the gate (R166): a silent no-operation with status `OK` when the clip leaves nothing
(R165), the whole job otherwise. -/
def fillBody (x y w h color : Word16) (s : State) : State :=
  match clip s.cfg x y w h with
  | none => s.answer .ok
  | some (x2, y2) =>
    runMicros (fillProgram s.cfg (s.lat.ofFillRect x y w h color x2 y2))
      (s.accept (s.lat.ofFillRect x y w h color x2 y2) s.argBuf)

/-- FILL_RECT (R166). -/
def execFillRect (x y w h color : Word16) (s : State) : Host.Outcome State Fault Refusal :=
  .next (s.gate (.fillRect x y w h color) (fillBody x y w h color s))

end Sys2Proof.Machine
end

