-- ==== Sys2Proof/Machine/Region.lean ====
section
/-! DEFINITION. The Region Addressor: SET_WINDOW (spec/42_region_addressor.md R150 to R154). -/

namespace Sys2Proof.Machine

/-- The micro-program of SET_WINDOW, from the latched operands (R150). -/
def setWindowProgram (c : Config) (lat : Latches) : List Micro :=
  window c lat.x1 lat.y1 lat.x2 lat.y2 lat.dir

/-- The latches a SET_WINDOW loads (R24, R82). -/
def Latches.ofSetWindow (dir : Dir) (x1 y1 x2 y2 : Word16) (lat : Latches) : Latches :=
  { lat with opr := opSetWindow, dir := dir, x1 := x1, y1 := y1, x2 := x2, y2 := y2 }

/-- SET_WINDOW (R150). -/
def execSetWindow (dir : Dir) (x1 y1 x2 y2 : Word16) (s : State) : Host.Outcome State Fault Refusal :=
  .next (s.gate (.setWindow dir x1 y1 x2 y2)
    (runMicros (setWindowProgram s.cfg (s.lat.ofSetWindow dir x1 y1 x2 y2))
      (s.accept (s.lat.ofSetWindow dir x1 y1 x2 y2) s.argBuf)))

end Sys2Proof.Machine
end

