-- ==== Sys2Proof/Machine/Dispatch.lean ====
section
/-! DEFINITION. The meaning of each request, one arm per constructor (spec/30_encoding.md R90). -/

namespace Sys2Proof.Machine

def exec (i : Instr) (s : State) : Host.Outcome State Fault Refusal :=
  match i with
  | .initialise => Sys2Proof.Machine.execInitialise s
  | .cleanup => Sys2Proof.Machine.execCleanup s
  | .sendBare cmd => Sys2Proof.Machine.execSendBare cmd s
  | .send cmd args => Sys2Proof.Machine.execSend cmd args s
  | .setWindow dir x1 y1 x2 y2 => Sys2Proof.Machine.execSetWindow dir x1 y1 x2 y2 s
  | .stream data => Sys2Proof.Machine.execStream data s
  | .endSession => Sys2Proof.Machine.execEndSession s
  | .fillRect x y w h color => Sys2Proof.Machine.execFillRect x y w h color s

end Sys2Proof.Machine
end

