-- ==== Sys2Proof/Machine/Sequencer.lean ====
section
/-! DEFINITION. The micro-sequencer (spec/10_state.md R26, R27; spec/40_micro_operations.md R126): the micro-program
the latches determine, one step of a running request, and the rest of a request that the transport kept waiting. -/

namespace Sys2Proof.Machine

/-- The micro-program of the accepted request, "fully determined at acceptance" (R27): by the `OPR` latch, the other
latches and the parameters. -/
def microProgram (c : Config) (lat : Latches) : Option (List Micro) :=
  if lat.opr = opInitialise then some (initialiseProgram c)
  else if lat.opr = opCleanup then some cleanupProgram
  else if lat.opr = opSendBare then some (sendBareProgram lat)
  else if lat.opr = opSend then some (sendProgram lat)
  else if lat.opr = opSetWindow then some (setWindowProgram c lat)
  else if lat.opr = opStream then some streamProgram
  else if lat.opr = opEndSession then some endSessionProgram
  else if lat.opr = opFillRect then some (fillProgram c lat)
  else none

/-- One step of the framer in R126's sense: the micro-operation at `UPC` with its register writes, or, when `UPC`
equals the micro-program's length, the response (R27). An idle framer stays as it is. -/
def State.microStep (s : State) : State :=
  if s.busy then
    match microProgram s.cfg s.lat with
    | none => s
    | some ms =>
      match ms[s.upc]? with
      | none => s.respond .ok
      | some m =>
        match m.perform s with
        | .running t => t
        | .ended t => t
        | .blocked t => t
  else s

/-- The rest of a running request, from `UPC` to its response or to the next call the transport keeps waiting. -/
def State.resume (s : State) : Host.Outcome State Fault Refusal :=
  match microProgram s.cfg s.lat with
  | none => .fault (.noMicroProgram s.lat.opr)
  | some ms =>
    if ms.length < s.upc then .fault (.upcPastEnd s.upc)
    else .next (runMicros (ms.drop s.upc) s)

end Sys2Proof.Machine
end

