-- ==== Sys2Proof/Machine/Step.lean ====
section
/-! DEFINITION. One step of the machine: the framer's own reset if it strikes, the rest of a running request, or the
next request from the port, whole (spec/30_encoding.md R80, R81; logs 10, 11). -/

namespace Sys2Proof.Machine

/-- One step. An idle framer with nothing presented stays as it is (R240: "waits for a request"). A packet that does
not decode takes the refusal path in every state (R91, R92, R203). -/
def step (s : State) : Host.Outcome State Fault Refusal :=
  match s.nextAction with
  | .strike t => .next t.ownReset
  | .carryOn => s.resume
  | .wait => .next s
  | .take p t =>
    match decode p with
    | .ok i => exec i t
    | .error _ => .next t.refuse

/-- The state with the packet of an opcode-table word presented next on the request port and the framer idle, so that
the very next step accepts and runs it (logs 11, 19). -/
def State.withFetchWord (s : State) (nbits w : Nat) : State :=
  { s with busy := false, inputs := .packet (packetOfWord nbits w) :: s.inputs }

end Sys2Proof.Machine
end

