-- ==== Sys2Proof/Machine/Assembler.lean ====
section
/-! DEFINITION. The textual syntax of requests (spec/30_encoding.md R100 to R102): one request a line, lower-case
mnemonic first, operands separated by commas, numbers as in R10, byte lists in square brackets, colour names. Text is a
list of characters. Nothing in the machine depends on it (log 28). -/

namespace Sys2Proof.Machine

/-- The value of a digit in a base up to 16. -/
def digitValue (base : Nat) (ch : Char) : Option Nat :=
  let v :=
    if '0' ≤ ch ∧ ch ≤ '9' then ch.toNat - '0'.toNat
    else if 'a' ≤ ch ∧ ch ≤ 'f' then ch.toNat - 'a'.toNat + 10
    else if 'A' ≤ ch ∧ ch ≤ 'F' then ch.toNat - 'A'.toNat + 10
    else 16
  if v < base then some v else none

/-- Digits after an accumulated value, most significant first. -/
def digitsValue (base : Nat) : List Char → Nat → Option Nat
  | [], acc => some acc
  | ch :: rest, acc => (digitValue base ch).bind fun d => digitsValue base rest (acc * base + d)

/-- A number: `0x..` hexadecimal, `0b..` binary, otherwise decimal (R10). -/
def parseNumber : List Char → Option Nat
  | '0' :: 'x' :: ch :: rest => digitsValue 16 (ch :: rest) 0
  | '0' :: 'b' :: ch :: rest => digitsValue 2 (ch :: rest) 0
  | ch :: rest => digitsValue 10 (ch :: rest) 0
  | [] => none

/-- A number that fits an operand of this many bits. -/
def parseBits (n : Nat) (cs : List Char) : Option (BitVec n) :=
  (parseNumber cs).bind fun v => if v < 2 ^ n then some (BitVec.ofNat n v) else none

/-- Drop the blanks at both ends. -/
def trimBlanks (cs : List Char) : List Char :=
  ((cs.dropWhile (· == ' ')).reverse.dropWhile (· == ' ')).reverse

/-- Cut at the commas that stand outside square brackets; `cur` is the piece being read, reversed. -/
def cutAtCommas : List Char → Bool → List Char → List (List Char)
  | [], _, cur => [trimBlanks cur.reverse]
  | ch :: rest, inside, cur =>
    if ch = ',' ∧ inside = false then trimBlanks cur.reverse :: cutAtCommas rest false []
    else cutAtCommas rest (if ch = '[' then true else if ch = ']' then false else inside) (ch :: cur)

/-- The operands of a line; a blank text has none. -/
def operandsOf (cs : List Char) : List (List Char) :=
  if trimBlanks cs = [] then [] else cutAtCommas cs false []

/-- A byte list `[b0, b1, ...]` (R100). -/
def parseByteList (cs : List Char) : Option (List Byte) :=
  match cs with
  | '[' :: rest =>
    match rest.reverse with
    | ']' :: inner => (operandsOf inner.reverse).mapM (parseBits 8)
    | _ => none
  | _ => none

/-- The colour names (R102). -/
def Color.text : Color → List Char
  | .white => ['w', 'h', 'i', 't', 'e']
  | .black => ['b', 'l', 'a', 'c', 'k']
  | .red => ['r', 'e', 'd']
  | .green => ['g', 'r', 'e', 'e', 'n']
  | .blue => ['b', 'l', 'u', 'e']
  | .yellow => ['y', 'e', 'l', 'l', 'o', 'w']
  | .cyan => ['c', 'y', 'a', 'n']
  | .magenta => ['m', 'a', 'g', 'e', 'n', 't', 'a']
  | .gray => ['g', 'r', 'a', 'y']

/-- `COLOR`: a colour name, which expands to its 16-bit value, or a number (R100, R101). -/
def parseColor (cs : List Char) : Option Word16 :=
  match [Color.white, .black, .red, .green, .blue, .yellow, .cyan, .magenta, .gray].find? (fun c => c.text == cs) with
  | some c => some c.value
  | none => parseBits 16 cs

/-- `write` or `read` (R100). -/
def parseDir (cs : List Char) : Option Dir :=
  if cs = ['w', 'r', 'i', 't', 'e'] then some .write
  else if cs = ['r', 'e', 'a', 'd'] then some .read
  else none

/-- The mnemonic of a request as R100 writes it. -/
def mnemonicText : Instr → List Char
  | .initialise => ['i', 'n', 'i', 't', 'i', 'a', 'l', 'i', 'z', 'e']
  | .cleanup => ['c', 'l', 'e', 'a', 'n', 'u', 'p']
  | .sendBare _ => ['s', 'e', 'n', 'd', '_', 'b', 'a', 'r', 'e']
  | .send _ _ => ['s', 'e', 'n', 'd']
  | .setWindow _ _ _ _ _ => ['s', 'e', 't', '_', 'w', 'i', 'n', 'd', 'o', 'w']
  | .stream _ => ['s', 't', 'r', 'e', 'a', 'm']
  | .endSession => ['e', 'n', 'd', '_', 's', 'e', 's', 's', 'i', 'o', 'n']
  | .fillRect _ _ _ _ _ => ['f', 'i', 'l', 'l', '_', 'r', 'e', 'c', 't']

/-- The request of a mnemonic and its operand texts (R100). -/
def parseRequest (name : List Char) (ops : List (List Char)) : Option Instr :=
  match ops with
  | [] =>
    if name = mnemonicText .initialise then some .initialise
    else if name = mnemonicText .cleanup then some .cleanup
    else if name = mnemonicText .endSession then some .endSession
    else none
  | [a] =>
    if name = mnemonicText (.sendBare 0) then (parseBits 8 a).map .sendBare
    else if name = mnemonicText (.stream []) then (parseByteList a).map .stream
    else none
  | [a, b] =>
    if name = mnemonicText (.send 0 []) then
      (parseBits 8 a).bind fun cmd => (parseByteList b).map fun args => .send cmd args
    else none
  | [a, b, c, d, e] =>
    if name = mnemonicText (.setWindow .write 0 0 0 0) then
      (parseBits 16 a).bind fun x1 => (parseBits 16 b).bind fun y1 => (parseBits 16 c).bind fun x2 =>
        (parseBits 16 d).bind fun y2 => (parseDir e).map fun dir => .setWindow dir x1 y1 x2 y2
    else if name = mnemonicText (.fillRect 0 0 0 0 0) then
      (parseBits 16 a).bind fun x => (parseBits 16 b).bind fun y => (parseBits 16 c).bind fun w =>
        (parseBits 16 d).bind fun h => (parseColor e).map fun color => .fillRect x y w h color
    else none
  | _ => none

/-- One line of a program (R100). -/
def parseLine (line : List Char) : Option Instr :=
  let cs := trimBlanks line
  parseRequest (cs.takeWhile (· != ' ')) (operandsOf (cs.dropWhile (· != ' ')))

/-- A program: the packets of its lines, in order (R100). -/
def assemble (lines : List (List Char)) : Option (List (List Byte)) :=
  (lines.mapM parseLine).map (·.map encode)

end Sys2Proof.Machine
end

