-- ==== Sys2Proof/Safety.lean ====
section
/-! DEFINITION. What counts as a safe run: the invariants of spec/10_state.md R33 to R35 and of
spec/44_bringup.md R190, at request boundaries and in the middle of a request; the same read off the trace alone; the
event lists the spec fixes for each kind of frame (spec/30_encoding.md R96 to R98, spec/44_bringup.md R180); finished
and clean runs (spec/70_reset_and_hazards.md R253). -/

namespace Sys2Proof.Machine

/-! ### What the transport still has to say -/

/-- The scripts keep no call waiting: every call is answered at once (R130). -/
def State.answersAtOnce (s : State) : Prop :=
  TxReply.pending ∉ s.txScript ∧ BusReply.pending ∉ s.busScript

/-- The replies that make transfers of these lengths succeed, in order (R122). -/
def okReplies (lens : List Nat) : List TxReply := lens.map fun n => .answer (.ok n)

/-! ### Event lists -/

/-- The event of a successful transfer. -/
def txOk (tmo : Timeout) (bytes : List Byte) : Event := .tx bytes tmo (.ok bytes.length)

/-- The command frame (R96): without an argument part when there are no argument bytes. -/
def commandFrame (cmd : Byte) (args : List Byte) : List Event :=
  [.line .cs false, .line .dc false, txOk .cmd [cmd]]
    ++ (if args = [] then [] else [.line .dc true, txOk .cmd args])
    ++ [.line .cs true]

/-- The opening byte of the third command of a window frame (R97). -/
def openingByte (c : Config) (dir : Dir) : Byte :=
  if dir = .write then c.opcRamwr else c.opcRamrd

/-- The window frame: twelve events, five of them transfers (R97). -/
def windowFrame (c : Config) (x1 y1 x2 y2 : Word16) (dir : Dir) : List Event :=
  [.line .cs false,
   .line .dc false, txOk .cmd [c.opcCaset], .line .dc true, txOk .cmd [hi x1, lo x1, hi x2, lo x2],
   .line .dc false, txOk .cmd [c.opcPaset], .line .dc true, txOk .cmd [hi y1, lo y1, hi y2, lo y2],
   .line .dc false, txOk .cmd [openingByte c dir],
   .line .dc true]

/-- The transfer lengths of a window frame (R57). -/
def windowLengths : List Nat := [1, 4, 1, 4, 1]

/-- Steps (a), (b) and (c) of INITIALIZE (R181 to R183): twelve events. -/
def bringupHead : List Event :=
  [.mode .cs, .mode .dc, .mode .rst, .line .cs true, .line .rst true, .line .dc true, .setup .ok,
   .line .rst false, .delay .rstLow, .line .rst true, .delay .rstHigh, .delay .settle]

/-- Step (d): one command frame per entry of `INIT_TABLE`, in list order (R184). -/
def tableEvents (table : List InitEntry) : List Event := table.flatMap fun e => commandFrame e.opc e.args

/-- Step (e): sleep-out, then display-on, each with its delay (R185): ten events. -/
def bringupTail (c : Config) : List Event :=
  commandFrame c.opcSlpout [] ++ [.delay .slpout] ++ commandFrame c.opcDispon [] ++ [.delay .dispon]

/-- The whole trace of a successful INITIALIZE (R180, R189). -/
def bringupEvents (c : Config) : List Event := bringupHead ++ tableEvents c.initTable ++ bringupTail c

/-- The transfer lengths of a command frame (R57). -/
def frameLengths (args : List Byte) : List Nat := if args = [] then [1] else [1, args.length]

/-- The transfer lengths of step (d), in order. -/
def tableLengths (table : List InitEntry) : List Nat := table.flatMap fun e => frameLengths e.args

/-- The trace up to and including transfer number `n` (counting from 0), with that transfer's answer replaced: what is
on the bus when that transfer is the one that fails (R204, R205). -/
def cutAtTransfer : Nat → TxAnswer → List Event → List Event
  | _, _, [] => []
  | 0, a, .tx bytes tmo _ :: _ => [.tx bytes tmo a]
  | n + 1, a, .tx bytes tmo r :: es => .tx bytes tmo r :: cutAtTransfer n a es
  | n, a, .mode p :: es => .mode p :: cutAtTransfer n a es
  | n, a, .line p v :: es => .line p v :: cutAtTransfer n a es
  | n, a, .setup r :: es => .setup r :: cutAtTransfer n a es
  | n, a, .close r :: es => .close r :: cutAtTransfer n a es
  | n, a, .delay d :: es => .delay d :: cutAtTransfer n a es

/-- One row of a fill: the colour's two bytes, high byte first, `n` times (R168). -/
def colourRow (n : Nat) (color : Word16) : List Byte := (List.replicate n [hi color, lo color]).flatten

/-- The trace of a FILL_RECT that draws the region `(x1, y1)-(x2, y2)` (R166, R171). -/
def fillEvents (c : Config) (x1 y1 x2 y2 color : Word16) : List Event :=
  windowFrame c x1 y1 x2 y2 .write
    ++ List.replicate (y2.toNat - y1.toNat + 1) (txOk .row (colourRow (x2.toNat - x1.toNat + 1) color))
    ++ [.line .cs true]

/-- The transfer lengths of a FILL_RECT that draws (R57, R171). -/
def fillLengths (x1 y1 x2 y2 : Word16) : List Nat :=
  windowLengths ++ List.replicate (y2.toNat - y1.toNat + 1) (2 * (x2.toNat - x1.toNat + 1))

/-- `(x2, y2)` is the lower right corner of the rectangle clipped to the panel: `x2 = min(WIDTH - 1, X + W - 1)`,
`y2 = min(HEIGHT - 1, Y + H - 1)` (R166 step 2). For a rectangle with nothing to draw there is none. -/
def clipsTo (c : Config) (x y w h x2 y2 : Word16) : Prop :=
  x.toNat < c.width ∧ y.toNat < c.height ∧ 1 ≤ w.toNat ∧ 1 ≤ h.toNat ∧
    x2.toNat = min (c.width - 1) (x.toNat + w.toNat - 1) ∧
    y2.toNat = min (c.height - 1) (y.toNat + h.toNat - 1)

/-- The pixel at a column and row lies in the rectangle clipped to the panel. -/
def inClip (c : Config) (x y w h : Word16) (col row : Nat) : Prop :=
  x.toNat ≤ col ∧ col < min c.width (x.toNat + w.toNat) ∧ y.toNat ≤ row ∧ row < min c.height (y.toNat + h.toNat)

/-! ### The lines, and what is going on, at one moment -/

/-- The registers the invariants speak about, and the two buffers a transfer can carry. -/
structure View where
  lstate   : LState
  session  : Session
  cs       : LineReg
  dc       : LineReg
  rst      : LineReg
  argBytes : List Byte
  rowBuf   : List Byte
  deriving DecidableEq, Repr

/-- The view of a state. -/
def State.view (s : State) : View where
  lstate := s.lstate
  session := s.session
  cs := s.cs
  dc := s.dc
  rst := s.rst
  argBytes := s.argBuf.take s.lat.narg.toNat
  rowBuf := s.rowBuf

/-- A line that is driven has been written (between requests; R181, U4). -/
abbrev LineReg.settled (r : LineReg) : Prop := r.oe = true → r.written = true

/-- All three lines are driven and written. -/
abbrev View.linesDriven (v : View) : Prop :=
  v.cs.oe = true ∧ v.dc.oe = true ∧ v.rst.oe = true ∧
    v.cs.written = true ∧ v.dc.written = true ∧ v.rst.written = true

/-- What holds at every request boundary: the session-line invariant (R33); lines driven and `RST` high once the
lifecycle has left `UNINITIALIZED` (R31, R180); `BUS_CONFIGURED` never seen there (R190). -/
abbrev View.atRest (v : View) : Prop :=
  (v.cs.oe = true → (v.cs.level = true ↔ v.session = .closed)) ∧
  (v.session ≠ .closed → v.cs.level = false ∧ v.dc.level = true ∧ v.lstate = .active) ∧
  (v.lstate ≠ .uninitialized → v.linesDriven ∧ v.rst.level = true) ∧
  v.lstate ≠ .busConfigured ∧
  v.cs.settled ∧ v.dc.settled ∧ v.rst.settled

/-- The transfer invariant (R34). -/
abbrev View.transferReady (v : View) : Prop :=
  v.cs.oe = true ∧ v.dc.oe = true ∧ v.rst.oe = true ∧ v.cs.level = false ∧ v.rst.level = true ∧
    (v.lstate = .resetSettled ∨ v.lstate = .registersProgrammed ∨ v.lstate = .active)

/-- The phase invariant (R35) with the widths and timeouts of R57 and R122: a transfer with `DC` low is a one-byte
opcode frame with `CMD_TIMEOUT`; no transfer is empty or longer than 131070 bytes. -/
abbrev phaseOk (dc : Level) (bytes : List Byte) (tmo : Timeout) : Prop :=
  1 ≤ bytes.length ∧ bytes.length ≤ 131070 ∧ (dc = false → bytes.length = 1 ∧ tmo = .cmd)

/-- The view after the abort path (R204). -/
def View.aborted (v : View) : View :=
  { v with cs := if v.cs.level then v.cs else { v.cs with level := true, written := true }, session := .closed }

/-- The bytes a transfer carries, in a view. -/
def View.source (v : View) : TxSource → List Byte
  | .bytes bs => bs
  | .argBuf => v.argBytes
  | .rowBuf => v.rowBuf

/-- What a completed micro-operation does to the view. -/
def View.afterOp (v : View) : MicroOp → View
  | .mode .cs => { v with cs := { v.cs with oe := true } }
  | .mode .dc => { v with dc := { v.dc with oe := true } }
  | .mode .rst => { v with rst := { v.rst with oe := true } }
  | .line .cs l => { v with cs := { v.cs with level := l, written := true } }
  | .line .dc l => { v with dc := { v.dc with level := l, written := true } }
  | .line .rst l => { v with rst := { v.rst with level := l, written := true } }
  | .tx _ _ => v
  | .delay _ => v
  | .busSetup => v
  | .busClose => v

/-- What a register write does to the view. -/
def View.afterWrite (v : View) : RegWrite → View
  | .lstate l => { v with lstate := l }
  | .session x => { v with session := x }
  | .rowBuf bs => { v with rowBuf := bs }

/-- What a completed step does to the view. -/
def View.after (v : View) (m : Micro) : View := m.writes.foldl View.afterWrite (v.afterOp m.op)

/-- Whether a line is driven, in a view. -/
def View.drives (v : View) : Line → Prop
  | .cs => v.cs.oe = true
  | .dc => v.dc.oe = true
  | .rst => v.rst.oe = true

/-- What must hold when a step runs: no line is written while it is not driven (R31); a transfer meets R34 and R35; a
failure leads to a state at rest (R36); chip-select is high at `bus_setup` (R182). -/
def View.safeStep (v : View) (m : Micro) : Prop :=
  match m.op with
  | .mode _ => True
  | .line p _ => v.drives p
  | .tx src tmo => v.transferReady ∧ phaseOk v.dc.level (v.source src) tmo ∧ v.aborted.atRest
  | .delay _ => True
  | .busSetup => v.cs.level = true ∧ v.aborted.atRest
  | .busClose => (m.writes.foldl View.afterWrite v).atRest

/-- Every step of the list is safe when its turn comes, and the end is at rest. -/
def View.safeRun : List Micro → View → Prop
  | [], v => v.atRest
  | m :: ms, v => v.safeStep m ∧ View.safeRun ms (v.after m)

/-- The invariant of the machine: legal parameters, frame memory in canonical form, and the framer at rest between
requests or on a safe way through the micro-program its latches determine. -/
def State.inv (s : State) : Prop :=
  s.cfg.Valid ∧ s.ctl.fb.wf ∧
  (s.busy = false → s.view.atRest) ∧
  (s.busy = true → ∃ ms, microProgram s.cfg s.lat = some ms ∧ s.upc ≤ ms.length ∧
    View.safeRun (ms.drop s.upc) s.view)

/-! ### The lifecycle while INITIALIZE runs -/

/-- The value of `LSTATE` after the register writes of a list of steps. -/
def lstateAfter (ms : List Micro) (l : LState) : LState :=
  (ms.flatMap Micro.writes).foldl (fun l w => match w with | .lstate v => v | .session _ => l | .rowBuf _ => l) l

/-- While INITIALIZE runs, `LSTATE` is what the steps done so far have made of `UNINITIALIZED` (R22, R187). -/
def State.lifecycleInv (s : State) : Prop :=
  s.busy = true → s.lat.opr = opInitialise →
    s.lstate = lstateAfter ((initialiseProgram s.cfg).take s.upc) .uninitialized

/-! ### Window before pixels, under the reference controller (log 13) -/

/-- The controller takes pixels into a window inside the panel (R249). -/
def Controller.hasWindow (g : Config) (c : Controller) : Prop :=
  c.op = .ramwr ∧ c.cx1.toNat ≤ c.cx2.toNat ∧ c.cx2.toNat < g.width ∧ c.py1.toNat ≤ c.py2.toNat ∧ c.py2.toNat < g.height

/-- The controller after a completed micro-operation other than a write of 0 to `RST`. -/
def Controller.afterOp (g : Config) (v : View) (c : Controller) : MicroOp → Controller
  | .line .cs true => c.deselect
  | .tx src _ => c.receive g v.cs.level v.dc.level (v.source src)
  | .line .cs false => c
  | .line .dc _ => c
  | .line .rst _ => c
  | .mode _ => c
  | .delay _ => c
  | .busSetup => c
  | .busClose => c

/-- If the steps of the list all complete and leave a session for writing open, the controller has a window; a reset of
the controller on the way leaves it in any state. -/
def Controller.windowRun (g : Config) : List Micro → View → Controller → Prop
  | [], v, c => v.session = .openWrite → c.hasWindow g
  | m :: ms, v, c =>
    (m.op ≠ .line .rst false → Controller.windowRun g ms (v.after m) (c.afterOp g v m.op)) ∧
    (m.op = .line .rst false → ∀ d, Controller.windowRun g ms (v.after m) d)

/-- R249 between requests, and on the way through a request. -/
def State.windowInv (s : State) : Prop :=
  (s.busy = false → s.session = .openWrite → s.ctl.hasWindow s.cfg) ∧
  (s.busy = true → ∀ ms, microProgram s.cfg s.lat = some ms →
    Controller.windowRun s.cfg (ms.drop s.upc) s.view s.ctl)

/-! ### The line invariants, read off the trace alone -/

/-- What an observer of the trace knows of the three lines (R38). -/
structure Wires where
  cs  : LineReg
  dc  : LineReg
  rst : LineReg
  deriving DecidableEq, Repr

/-- Before the first event nothing is driven (R40). -/
def Wires.start : Wires := ⟨LineReg.reset, LineReg.reset, LineReg.reset⟩

/-- The lines of a state. -/
def State.wires (s : State) : Wires := ⟨s.cs, s.dc, s.rst⟩

/-- What one event tells. -/
def Wires.see (w : Wires) : Event → Wires
  | .mode .cs => { w with cs := { w.cs with oe := true } }
  | .mode .dc => { w with dc := { w.dc with oe := true } }
  | .mode .rst => { w with rst := { w.rst with oe := true } }
  | .line .cs l => { w with cs := { w.cs with level := l, written := true } }
  | .line .dc l => { w with dc := { w.dc with level := l, written := true } }
  | .line .rst l => { w with rst := { w.rst with level := l, written := true } }
  | .setup _ => w
  | .close _ => w
  | .tx _ _ _ => w
  | .delay _ => w

/-- What must hold at one event: a line write only on a driven line (R31); at a transfer all lines driven, `CS` low,
`RST` high (R34), and the phase of R35. -/
def Wires.allows (w : Wires) : Event → Prop
  | .mode _ => True
  | .line .cs _ => w.cs.oe = true
  | .line .dc _ => w.dc.oe = true
  | .line .rst _ => w.rst.oe = true
  | .setup _ => True
  | .close _ => True
  | .tx bytes tmo _ =>
    w.cs.oe = true ∧ w.dc.oe = true ∧ w.rst.oe = true ∧ w.cs.level = false ∧ w.rst.level = true ∧
      phaseOk w.dc.level bytes tmo
  | .delay _ => True

/-- Every event of the list is allowed when it happens. -/
def Wires.allowsAll : Wires → List Event → Prop
  | _, [] => True
  | w, e :: es => w.allows e ∧ Wires.allowsAll (w.see e) es

/-- The trace since reset meets R34 and R35 at every transfer, and the line registers are what it says. -/
def State.traceSafe (s : State) : Prop :=
  Wires.start.allowsAll s.trace ∧ s.trace.foldl Wires.see Wires.start = s.wires

/-! ### Requests -/

/-- The state right after the acceptance of a request that will run micro-operations (R81, R82, R27): admitted, with legal
operands, and not a FILL_RECT with nothing to draw. -/
def State.accepted (s : State) (i : Instr) : Option State :=
  if requestAdmitted i s && operandsLegal s.cfg i then
    match i with
    | .initialise => some (s.accept s.lat.ofInitialise s.argBuf)
    | .cleanup => some (s.accept s.lat.ofCleanup s.argBuf)
    | .sendBare cmd => some (s.accept (s.lat.ofSendBare cmd) s.argBuf)
    | .send cmd args => some (s.accept (s.lat.ofSend cmd args) args)
    | .setWindow dir x1 y1 x2 y2 => some (s.accept (s.lat.ofSetWindow dir x1 y1 x2 y2) s.argBuf)
    | .stream data => some (s.accept (s.lat.ofStream data) data)
    | .endSession => some (s.accept s.lat.ofEndSession s.argBuf)
    | .fillRect x y w h color =>
      (clip s.cfg x y w h).map fun c => s.accept (s.lat.ofFillRect x y w h color c.1 c.2) s.argBuf
  else none

/-- The opcode of the request the next step works on, if it works on one: the running request's, or the one of the packet
an idle framer is presented with. -/
def State.currentOpcode (s : State) : Option Byte :=
  if s.busy then some s.lat.opr
  else
    match s.inputs with
    | .packet (opr :: _) :: _ => some opr
    | _ => none

/-! ### Runs -/

/-- Run `microStep` this many times. -/
def microSteps : Nat → State → State
  | 0, s => s
  | n + 1, s => microSteps n s.microStep

/-- Every request presented has been answered (R253). -/
def State.finished (s : State) : Prop := s.busy = false ∧ s.inputs = []

/-- A finished run is clean if no session is open (R253). -/
def State.clean (s : State) : Prop := s.finished ∧ s.session = .closed

/-- One STREAM request after another, as long as each answers a next state. -/
def streamRows : Nat → List Byte → State → Host.Outcome State Fault Refusal
  | 0, _, s => .next s
  | n + 1, row, s =>
    match exec (.stream row) s with
    | .next t => streamRows n row t
    | .fault f => .fault f
    | .refused r => .refused r

end Sys2Proof.Machine
end

