-- ==== Sys2Proof/Certificates/Slice0/Obligations.lean ====
section
/-! DEFINITION. The statements for the provers. Each docstring names the rules of spec/ the statement formalises, or the
sections it rests on. -/

open Sys2Proof Sys2Proof.Machine

/-! ## Reset and input -/

/-- R240. The framer's own reset gives every state element its reset value, drives no line and leaves the parameters
alone, from every state; a reset framer with nothing presented waits. -/
def Obligations.OwnResetGivesResetValues : Prop :=
  ∀ s : State,
    s.ownReset.lstate = .uninitialized ∧ s.ownReset.session = .closed ∧ s.ownReset.status = .ok ∧
    s.ownReset.busy = false ∧ s.ownReset.cs.oe = false ∧ s.ownReset.dc.oe = false ∧ s.ownReset.rst.oe = false ∧
    (∀ p, s.ownReset.pin p = none) ∧ s.ownReset.trace = [] ∧ s.ownReset.cfg = s.cfg ∧
    (s.inputs = [] → step s.ownReset = .next s.ownReset) ∧
    State.reset.lstate = .uninitialized ∧ State.reset.session = .closed ∧ State.reset.status = .ok ∧
    State.reset.busy = false ∧ (∀ p, State.reset.pin p = none) ∧ State.reset.trace = []

/-- R241, 70_reset_and_hazards.md. The own reset strikes whatever the framer is doing; a request it was running gets no
response; the order among the inputs is the model's (log 12). -/
def Obligations.OwnResetStrikesAtAnyMoment : Prop :=
  ∀ (s : State) (rest : List Input), s.inputs = .ownReset :: rest →
    ∃ t, step s = .next t ∧ t.busy = false ∧ t.session = .closed ∧ t.lstate = .uninitialized ∧
      (∀ p, t.pin p = none) ∧ t.trace = [] ∧ t.inputs = rest ∧ t.cfg = s.cfg

/-- R81, 30_encoding.md section 1. While `BUSY = 1` a packet is held at the port, unaccepted and unchanged: the step
carries the running request on, and every input is still there. -/
def Obligations.BusyFramerHoldsPackets : Prop :=
  ∀ (s : State) (p : List Byte) (rest : List Input), s.busy = true → s.inputs = .packet p :: rest →
    step s = s.resume ∧ ∀ t, step s = .next t → t.inputs = s.inputs

/-- R80, R81. A step of an idle framer runs the request its next packet decodes to, with the packet taken from the
port. -/
def Obligations.StepRunsDecodedRequest : Prop :=
  ∀ (s : State) (p : List Byte) (rest : List Input) (i : Instr),
    s.busy = false → s.inputs = .packet p :: rest → decode p = .ok i → step s = exec i { s with inputs := rest }

/-! ## Encoding -/

/-- 30_encoding.md sections 2 and 3. Packets written out from the format tables decode to what they stand for. -/
def Obligations.SamplePacketsDecode : Prop :=
  decode [0x01] = .ok .initialise ∧ decode [0x02] = .ok .cleanup ∧ decode [0x22] = .ok .endSession ∧
  decode [0x10, 0x29] = .ok (.sendBare 0x29) ∧
  decode [0x11, 0xE0, 0x00, 0x03, 0x00, 0x03, 0x09] = .ok (.send 0xE0 [0x00, 0x03, 0x09]) ∧
  decode [0x20, 0x01, 0x00, 0x05, 0x01, 0x07, 0x02, 0x06, 0x03, 0x08] =
    .ok (.setWindow .read 0x0005 0x0107 0x0206 0x0308) ∧
  decode [0x21, 0x00, 0x04, 0x07, 0xE0, 0x07, 0xE0] = .ok (.stream [0x07, 0xE0, 0x07, 0xE0]) ∧
  decode [0x30, 0x01, 0x36, 0x01, 0x37, 0x00, 0x32, 0x00, 0x33, 0xF8, 0x1F] = .ok (.fillRect 310 311 50 51 0xF81F)

/-- 30_encoding.md sections 2 and 3. Decoding the packet of a well-formed request gives it back, for every request and
every operand value. -/
def Obligations.DecodeOfEncode : Prop :=
  ∀ i : Instr, i.wellFormed = true → decode (encode i) = .ok i

/-- R94. Two different packets never decode to the same request with the same operands: a packet that decodes is the
encoding of the request it decodes to, which is well-formed. -/
def Obligations.EncodeOfDecode : Prop :=
  ∀ (p : List Byte) (i : Instr), decode p = .ok i → encode i = p ∧ i.wellFormed = true

/-- R91. A packet with a reserved opcode, and the empty packet, are refused: response `PRECONDITION_VIOLATION`, and no
state but `STATUS` changes (the packet leaves the port and the response byte is delivered). -/
def Obligations.ReservedOpcodeRefused : Prop :=
  ∀ (s : State) (p : List Byte) (rest : List Input), s.busy = false → s.inputs = .packet p :: rest →
    (p = [] ∨ ∃ opr ops, p = opr :: ops ∧
      opr ∉ ([0x01, 0x02, 0x10, 0x11, 0x20, 0x21, 0x22, 0x30] : List Byte)) →
    step s = .next { s with
      inputs := rest, status := .preconditionViolation, busy := false, responses := s.responses ++ [0x02] }

/-- R92. A packet whose length is not the one its format demands, or that is too short to contain its own `NARG`, is
refused exactly like a reserved opcode. -/
def Obligations.MalformedPacketRefused : Prop :=
  ∀ (s : State) (opr : Byte) (ops : List Byte) (rest : List Input),
    s.busy = false → s.inputs = .packet (opr :: ops) :: rest →
    ((opr = 0x01 ∧ ops.length ≠ 0) ∨ (opr = 0x02 ∧ ops.length ≠ 0) ∨ (opr = 0x22 ∧ ops.length ≠ 0) ∨
     (opr = 0x10 ∧ ops.length ≠ 1) ∨ (opr = 0x20 ∧ ops.length ≠ 9) ∨ (opr = 0x30 ∧ ops.length ≠ 10) ∨
     (opr = 0x11 ∧ (ops.length < 3 ∨
       ∃ cmd n1 n0 args, ops = cmd :: n1 :: n0 :: args ∧ args.length ≠ n1.toNat * 256 + n0.toNat)) ∨
     (opr = 0x21 ∧ (ops.length < 2 ∨
       ∃ n1 n0 data, ops = n1 :: n0 :: data ∧ data.length ≠ n1.toNat * 256 + n0.toNat))) →
    step s = .next { s with
      inputs := rest, status := .preconditionViolation, busy := false, responses := s.responses ++ [0x02] }

/-! ## Refusals -/

/-- R216 (and R93). Illegal operands are refused with no effect but `STATUS` and the response: `CMD` outside `CMD_SET`,
an illegal region, no data, and, in a packet, a `DIR` byte other than 0 and 1. -/
def Obligations.IllegalOperandsRefused : Prop :=
  ∀ s : State, s.busy = false →
    (∀ cmd, cmd ∉ s.cfg.cmdSet →
      exec (.sendBare cmd) s = .next { s with
        status := .preconditionViolation, busy := false, responses := s.responses ++ [0x02] } ∧
      ∀ args, exec (.send cmd args) s = .next { s with
        status := .preconditionViolation, busy := false, responses := s.responses ++ [0x02] }) ∧
    (∀ dir x1 y1 x2 y2,
      ¬ (x1.toNat ≤ x2.toNat ∧ x2.toNat + 1 ≤ s.cfg.width ∧ y1.toNat ≤ y2.toNat ∧ y2.toNat + 1 ≤ s.cfg.height) →
      exec (.setWindow dir x1 y1 x2 y2) s = .next { s with
        status := .preconditionViolation, busy := false, responses := s.responses ++ [0x02] }) ∧
    exec (.stream []) s = .next { s with
      status := .preconditionViolation, busy := false, responses := s.responses ++ [0x02] } ∧
    (∀ d a1 a0 b1 b0 c1 c0 e1 e0 rest, d ≠ 0x00 → d ≠ 0x01 →
      s.inputs = .packet [0x20, d, a1, a0, b1, b0, c1, c0, e1, e0] :: rest →
      step s = .next { s with
        inputs := rest, status := .preconditionViolation, busy := false, responses := s.responses ++ [0x02] })

/-- R203, with the admission table of R215: a request not admitted in the present mode leaves the state as it was but for
`STATUS` (and the response byte); an open session stays open. -/
def Obligations.UnadmittedRequestsRefused : Prop :=
  ∀ (s : State) (i : Instr), s.busy = false →
    ((i = .initialise ∧ s.lstate ≠ .uninitialized) ∨
     (i = .cleanup ∧ (s.lstate = .uninitialized ∨ s.session ≠ .closed)) ∨
     ((∃ cmd, i = .sendBare cmd) ∧ (s.lstate ≠ .active ∨ s.session ≠ .closed)) ∨
     ((∃ cmd args, i = .send cmd args) ∧ (s.lstate ≠ .active ∨ s.session ≠ .closed)) ∨
     ((∃ dir x1 y1 x2 y2, i = .setWindow dir x1 y1 x2 y2) ∧ (s.lstate ≠ .active ∨ s.session ≠ .closed)) ∨
     ((∃ data, i = .stream data) ∧ s.session ≠ .openWrite) ∨
     (i = .endSession ∧ s.session = .closed) ∨
     ((∃ x y w h color, i = .fillRect x y w h color) ∧ (s.lstate ≠ .active ∨ s.session ≠ .closed))) →
    exec i s = .next { s with
      status := .preconditionViolation, busy := false, responses := s.responses ++ [0x02] }

/-- R200, R202. A request that is admitted and whose operands are legal never answers `PRECONDITION_VIOLATION`; a
FILL_RECT in command mode never does, whatever its geometry. -/
def Obligations.AdmittedRequestsNeverRefused : Prop :=
  ∀ (s t : State) (i : Instr), s.busy = false → exec i s = .next t → t.busy = false →
    (match i with
      | .initialise => s.lstate = .uninitialized
      | .cleanup => s.lstate ≠ .uninitialized ∧ s.session = .closed
      | .sendBare cmd => s.lstate = .active ∧ s.session = .closed ∧ cmd ∈ s.cfg.cmdSet
      | .send cmd _ => s.lstate = .active ∧ s.session = .closed ∧ cmd ∈ s.cfg.cmdSet
      | .setWindow _ x1 y1 x2 y2 => s.lstate = .active ∧ s.session = .closed ∧
          x1.toNat ≤ x2.toNat ∧ x2.toNat < s.cfg.width ∧ y1.toNat ≤ y2.toNat ∧ y2.toNat < s.cfg.height
      | .stream data => s.session = .openWrite ∧ data ≠ []
      | .endSession => s.session ≠ .closed
      | .fillRect _ _ _ _ _ => s.lstate = .active ∧ s.session = .closed) →
    t.status = .ok ∨ t.status = .transportError

/-! ## The Command Encoder -/

/-- R96. SEND, when every transfer succeeds: the trace is the command frame, with an argument part only if there is at
least one argument byte; status `OK`; chip-select ends released, `DC` as last written; every other register as before. -/
def Obligations.SendEmitsCommandFrame : Prop :=
  ∀ (s : State) (cmd : Byte) (args : List Byte) (rest : List TxReply),
    s.busy = false → s.lstate = .active → s.session = .closed → cmd ∈ s.cfg.cmdSet → args.length ≤ 65535 →
    s.txScript = okReplies (if args = [] then [1] else [1, args.length]) ++ rest →
    ∃ t, exec (.send cmd args) s = .next t ∧
      t.trace = s.trace
        ++ [.line .cs false, .line .dc false, .tx [cmd] .cmd (.ok 1)]
        ++ (if args = [] then [] else [.line .dc true, .tx args .cmd (.ok args.length)])
        ++ [.line .cs true] ∧
      t.status = .ok ∧ t.responses = s.responses ++ [0x00] ∧ t.busy = false ∧
      t.cs = ⟨true, s.cs.oe, true⟩ ∧ t.dc = ⟨decide (args ≠ []), s.dc.oe, true⟩ ∧ t.rst = s.rst ∧
      t.lstate = s.lstate ∧ t.session = s.session ∧ t.cfg = s.cfg ∧ t.inputs = s.inputs ∧
      t.txScript = rest ∧ t.busScript = s.busScript

/-- R141. SEND_BARE: its encoding, its admission, the four events and `DC` left at 0 on success and on failure alike. -/
def Obligations.SendBareEmitsFourEvents : Prop :=
  ∀ (s : State) (cmd : Byte) (a : TxAnswer) (rest : List TxReply),
    encode (.sendBare cmd) = [0x10, cmd] ∧
    (s.busy = false → s.lstate = .active → s.session = .closed → cmd ∈ s.cfg.cmdSet →
      s.txScript = .answer a :: rest →
      ∃ t, exec (.sendBare cmd) s = .next t ∧
        t.trace = s.trace ++ [.line .cs false, .line .dc false, .tx [cmd] .cmd a, .line .cs true] ∧
        t.status = (if a = .ok 1 then .ok else .transportError) ∧
        t.responses = s.responses ++ [if a = .ok 1 then 0x00 else 0x01] ∧ t.busy = false ∧
        t.cs = ⟨true, s.cs.oe, true⟩ ∧ t.dc = ⟨false, s.dc.oe, true⟩ ∧ t.rst = s.rst ∧
        t.lstate = s.lstate ∧ t.session = s.session ∧ t.cfg = s.cfg ∧ t.inputs = s.inputs ∧
        t.txScript = rest ∧ t.busScript = s.busScript) ∧
    (s.busy = false → (s.lstate ≠ .active ∨ s.session ≠ .closed ∨ cmd ∉ s.cfg.cmdSet) →
      exec (.sendBare cmd) s = .next { s with
        status := .preconditionViolation, busy := false, responses := s.responses ++ [0x02] })

/-- R101 point (1), 30_encoding.md section 7. SEND with no argument bytes behaves exactly as SEND_BARE: where the
transport answers at once (log 9), the two leave the same state. -/
def Obligations.EmptySendEqualsSendBare : Prop :=
  ∀ (s : State) (cmd : Byte), s.busy = false → s.answersAtOnce →
    exec (.send cmd []) s = exec (.sendBare cmd) s

/-! ## The Region Addressor -/

/-- R97. SET_WINDOW, when every transfer succeeds: the twelve events of the window frame in either direction;
afterwards `CS = 0`, `DC = 1`, the session open; every other register as before. -/
def Obligations.SetWindowEmitsWindowFrame : Prop :=
  ∀ (s : State) (dir : Dir) (x1 y1 x2 y2 : Word16) (rest : List TxReply),
    s.busy = false → s.lstate = .active → s.session = .closed →
    x1.toNat ≤ x2.toNat → x2.toNat < s.cfg.width → y1.toNat ≤ y2.toNat → y2.toNat < s.cfg.height →
    s.txScript = okReplies [1, 4, 1, 4, 1] ++ rest →
    ∃ t, exec (.setWindow dir x1 y1 x2 y2) s = .next t ∧
      t.trace = s.trace ++
        [.line .cs false,
         .line .dc false, .tx [s.cfg.opcCaset] .cmd (.ok 1),
         .line .dc true, .tx [hi x1, lo x1, hi x2, lo x2] .cmd (.ok 4),
         .line .dc false, .tx [s.cfg.opcPaset] .cmd (.ok 1),
         .line .dc true, .tx [hi y1, lo y1, hi y2, lo y2] .cmd (.ok 4),
         .line .dc false, .tx [if dir = .write then s.cfg.opcRamwr else s.cfg.opcRamrd] .cmd (.ok 1),
         .line .dc true] ∧
      t.status = .ok ∧ t.responses = s.responses ++ [0x00] ∧ t.busy = false ∧
      t.session = (if dir = .write then .openWrite else .openRead) ∧
      t.cs = ⟨false, s.cs.oe, true⟩ ∧ t.dc = ⟨true, s.dc.oe, true⟩ ∧ t.rst = s.rst ∧
      t.lstate = s.lstate ∧ t.cfg = s.cfg ∧ t.inputs = s.inputs ∧ t.txScript = rest ∧ t.busScript = s.busScript

/-! ## The Raster Filler -/

/-- R160. STREAM: its encoding; on success one row transfer, no line written, the session still open; on failure
chip-select released and the session closed; refused unless a write session is open and there is data. -/
def Obligations.StreamSendsOneRowTransfer : Prop :=
  ∀ (s : State) (data : List Byte) (a : TxAnswer) (rest : List TxReply), data.length ≤ 65535 →
    encode (.stream data) =
      [0x21, BitVec.ofNat 8 (data.length / 256), BitVec.ofNat 8 (data.length % 256)] ++ data ∧
    (s.busy = false → s.session = .openWrite → data ≠ [] → s.txScript = .answer a :: rest →
      ∃ t, exec (.stream data) s = .next t ∧ t.busy = false ∧
        t.dc = s.dc ∧ t.rst = s.rst ∧ t.lstate = s.lstate ∧ t.cfg = s.cfg ∧ t.inputs = s.inputs ∧
        t.txScript = rest ∧ t.busScript = s.busScript ∧
        (a = .ok data.length →
          t.trace = s.trace ++ [.tx data .row a] ∧ t.status = .ok ∧ t.responses = s.responses ++ [0x00] ∧
          t.session = .openWrite ∧ t.cs = s.cs) ∧
        (a ≠ .ok data.length →
          t.trace = s.trace ++ [.tx data .row a] ++ (if s.cs.level then [] else [.line .cs true]) ∧
          t.status = .transportError ∧ t.responses = s.responses ++ [0x01] ∧
          t.session = .closed ∧ t.cs.level = true ∧ t.cs.oe = s.cs.oe)) ∧
    (s.busy = false → (s.session ≠ .openWrite ∨ data = []) →
      exec (.stream data) s = .next { s with
        status := .preconditionViolation, busy := false, responses := s.responses ++ [0x02] })

/-- R163. END_SESSION: its encoding, one `LINE(CS,1)`, the session closed, status `OK`, `DC` as it was; refused when no
session is open. -/
def Obligations.EndSessionReleasesChipSelect : Prop :=
  encode .endSession = [0x22] ∧
  ∀ s : State, s.busy = false →
    (s.session ≠ .closed →
      ∃ t, exec .endSession s = .next t ∧ t.trace = s.trace ++ [.line .cs true] ∧
        t.status = .ok ∧ t.responses = s.responses ++ [0x00] ∧ t.busy = false ∧ t.session = .closed ∧
        t.cs = ⟨true, s.cs.oe, true⟩ ∧ t.dc = s.dc ∧ t.rst = s.rst ∧ t.lstate = s.lstate ∧ t.cfg = s.cfg ∧
        t.inputs = s.inputs ∧ t.txScript = s.txScript ∧ t.busScript = s.busScript) ∧
    (s.session = .closed →
      exec .endSession s = .next { s with
        status := .preconditionViolation, busy := false, responses := s.responses ++ [0x02] })

/-- R171, R166 (43_raster_filler.md sections 2 and 3). A FILL_RECT that draws, when every transfer succeeds: exactly one
window frame for the clipped rectangle, exactly one row transfer per clipped row, each the colour's high and low byte
once per clipped column, then one `LINE(CS,1)`; the session ends closed; every other register as before. -/
def Obligations.FillRectDrawsClippedRows : Prop :=
  ∀ (s : State) (x y w h color x2 y2 : Word16) (rest : List TxReply),
    s.busy = false → s.lstate = .active → s.session = .closed →
    x.toNat < s.cfg.width → y.toNat < s.cfg.height → 1 ≤ w.toNat → 1 ≤ h.toNat →
    x2.toNat = min (s.cfg.width - 1) (x.toNat + w.toNat - 1) →
    y2.toNat = min (s.cfg.height - 1) (y.toNat + h.toNat - 1) →
    s.txScript = okReplies ([1, 4, 1, 4, 1]
      ++ List.replicate (y2.toNat - y.toNat + 1) (2 * (x2.toNat - x.toNat + 1))) ++ rest →
    ∃ t, exec (.fillRect x y w h color) s = .next t ∧
      t.trace = s.trace ++ windowFrame s.cfg x y x2 y2 .write
        ++ List.replicate (y2.toNat - y.toNat + 1)
            (.tx (List.replicate (x2.toNat - x.toNat + 1) [hi color, lo color]).flatten .row
              (.ok (2 * (x2.toNat - x.toNat + 1))))
        ++ [.line .cs true] ∧
      t.status = .ok ∧ t.responses = s.responses ++ [0x00] ∧ t.busy = false ∧ t.session = .closed ∧
      t.cs = ⟨true, s.cs.oe, true⟩ ∧ t.dc = ⟨true, s.dc.oe, true⟩ ∧ t.rst = s.rst ∧
      t.lstate = s.lstate ∧ t.cfg = s.cfg ∧ t.inputs = s.inputs ∧ t.txScript = rest ∧ t.busScript = s.busScript

/-- R165 cases (1), (2) and (5). A rectangle past the right or bottom bound, or of zero width or height, is a silent
no-operation: status `OK`, and no register but `STATUS` changes. -/
def Obligations.DegenerateFillIsSilent : Prop :=
  ∀ (s : State) (x y w h color : Word16), s.busy = false → s.lstate = .active → s.session = .closed →
    (s.cfg.width ≤ x.toNat ∨ s.cfg.height ≤ y.toNat ∨ w = 0 ∨ h = 0) →
    exec (.fillRect x y w h color) s =
      .next { s with status := .ok, busy := false, responses := s.responses ++ [0x00] }

/-- R167 (its consequences, 43_raster_filler.md section 2). The clip has no 16-bit wrap: it is empty exactly when the
rectangle starts past a bound or has no width or height, and otherwise its corner is the integer minimum, inside the
panel and not before the start. -/
def Obligations.ClipHasNoWrapAround : Prop :=
  ∀ (c : Config) (x y w h : Word16), c.DimsOk →
    (clip c x y w h = none ↔ c.width ≤ x.toNat ∨ c.height ≤ y.toNat ∨ w = 0 ∨ h = 0) ∧
    ∀ x2 y2, clip c x y w h = some (x2, y2) →
      (x2.toNat : Int) = min ((c.width : Int) - 1) ((x.toNat : Int) + w.toNat - 1) ∧
      (y2.toNat : Int) = min ((c.height : Int) - 1) ((y.toNat : Int) + h.toNat - 1) ∧
      x.toNat ≤ x2.toNat ∧ x2.toNat < c.width ∧ y.toNat ≤ y2.toNat ∧ y2.toNat < c.height ∧
      2 ≤ (rowBytes x x2 0).length ∧ (rowBytes x x2 0).length ≤ 2 * c.width

/-- R170 (43_raster_filler.md section 3). When every transfer succeeds, FILL_RECT appends event for event what
SET_WINDOW for the clipped rectangle, one STREAM of the row per clipped row, and END_SESSION append; both ways end with
the same registers, and with the same reference controller (R66, general knowledge: log 13). -/
def Obligations.FillEqualsWindowStreamsEnd : Prop :=
  ∀ (s : State) (x y w h color x2 y2 : Word16) (rest : List TxReply),
    s.busy = false → s.lstate = .active → s.session = .closed →
    clipsTo s.cfg x y w h x2 y2 → 2 * (x2.toNat - x.toNat + 1) ≤ 65535 →
    s.txScript = okReplies (fillLengths x y x2 y2) ++ rest →
    ∃ t u v z, exec (.fillRect x y w h color) s = .next t ∧
      exec (.setWindow .write x y x2 y2) s = .next u ∧
      streamRows (y2.toNat - y.toNat + 1) (colourRow (x2.toNat - x.toNat + 1) color) u = .next v ∧
      exec .endSession v = .next z ∧
      z.trace = t.trace ∧ z.status = t.status ∧ z.view.lstate = t.view.lstate ∧ z.session = t.session ∧
      z.cs = t.cs ∧ z.dc = t.dc ∧ z.rst = t.rst ∧ z.txScript = t.txScript ∧ z.ctl = t.ctl

/-- R169 (43_raster_filler.md section 3), under the reference controller of R66, which is general knowledge (logs 13,
14): after a FILL_RECT with status `OK` every pixel of the clipped rectangle holds the colour. -/
def Obligations.FillSetsEveryPixelOfTheClip : Prop :=
  ∀ (s t : State) (x y w h color : Word16), s.cfg.Valid → s.busy = false → s.lstate = .active → s.session = .closed →
    exec (.fillRect x y w h color) s = .next t → t.busy = false → t.status = .ok →
    ∀ col row, inClip s.cfg x y w h col row → t.ctl.pixel col row = some color

/-- R169 second half, under the reference controller of R66 (logs 13, 14). Whatever the transport answers, FILL_RECT
leaves every byte of the frame memory outside the clipped rectangle's pixels as it was. -/
def Obligations.FillTouchesNothingOutsideTheClip : Prop :=
  ∀ (s t : State) (x y w h color : Word16), s.cfg.Valid → s.busy = false →
    exec (.fillRect x y w h color) s = .next t →
    ∀ a, (∀ col row, inClip s.cfg x y w h col row → a ≠ pixelAddress col row ∧ a ≠ pixelAddress col row + 1) →
      t.ctl.fb.read a = s.ctl.fb.read a

/-! ## The Bring-up Sequencer -/

/-- R180, R189 (44_bringup.md section 1). INITIALIZE, when the setup and every transfer succeed: the whole trace in
order, `22 + sum(4 or 6)` events, and the final registers; every other register as before. -/
def Obligations.InitializeBringsPanelUp : Prop :=
  ∀ (s : State) (rest : List TxReply) (busRest : List BusReply),
    s.busy = false → s.lstate = .uninitialized → s.session = .closed →
    s.busScript = .answer .ok :: busRest →
    s.txScript = okReplies (tableLengths s.cfg.initTable ++ [1, 1]) ++ rest →
    ∃ t, exec .initialise s = .next t ∧
      t.trace = s.trace ++
        [.mode .cs, .mode .dc, .mode .rst, .line .cs true, .line .rst true, .line .dc true, .setup .ok,
         .line .rst false, .delay .rstLow, .line .rst true, .delay .rstHigh, .delay .settle]
        ++ s.cfg.initTable.flatMap (fun e => commandFrame e.opc e.args)
        ++ commandFrame s.cfg.opcSlpout [] ++ [.delay .slpout] ++ commandFrame s.cfg.opcDispon [] ++ [.delay .dispon] ∧
      t.trace.length = s.trace.length + 22 + (s.cfg.initTable.map fun e => if e.args = [] then 4 else 6).sum ∧
      t.status = .ok ∧ t.responses = s.responses ++ [0x00] ∧ t.busy = false ∧
      t.lstate = .active ∧ t.session = .closed ∧
      t.cs = ⟨true, true, true⟩ ∧ t.dc = ⟨false, true, true⟩ ∧ t.rst = ⟨true, true, true⟩ ∧
      t.cfg = s.cfg ∧ t.inputs = s.inputs ∧ t.txScript = rest ∧ t.busScript = busRest

/-- R182 (44_bringup.md section 1). A failing setup: seven events, chip-select already high so no line event of the abort
path, `LSTATE` still `UNINITIALIZED`, the lines driven and high. That the frame memory is as before is no part of R182: it
rests on the reference controller of R66, which is general knowledge (log 13), and on `RST` staying high (log 16). -/
def Obligations.FailedSetupStaysUninitialized : Prop :=
  ∀ (s : State) (busRest : List BusReply),
    s.busy = false → s.lstate = .uninitialized → s.busScript = .answer .err :: busRest →
    ∃ t, exec .initialise s = .next t ∧
      t.trace = s.trace ++
        [.mode .cs, .mode .dc, .mode .rst, .line .cs true, .line .rst true, .line .dc true, .setup .err] ∧
      t.status = .transportError ∧ t.responses = s.responses ++ [0x01] ∧ t.busy = false ∧
      t.lstate = .uninitialized ∧ t.session = .closed ∧
      t.cs = ⟨true, true, true⟩ ∧ t.dc = ⟨true, true, true⟩ ∧ t.rst = ⟨true, true, true⟩ ∧
      t.txScript = s.txScript ∧ t.busScript = busRest ∧ ∀ a, t.ctl.fb.read a = s.ctl.fb.read a

/-- R188 (44_bringup.md section 1). If transfer number `k` of bring-up fails, `LSTATE` stays `RESET_SETTLED` when it
belongs to step (d) and `REGISTERS_PROGRAMMED` when it belongs to step (e); chip-select is released, the remaining steps
are not run (no later reply is used, no later event appended) and nothing is retried. -/
def Obligations.FailedBringupKeepsLastStateReached : Prop :=
  ∀ (s : State) (k n : Nat) (a : TxAnswer) (rest : List TxReply) (busRest : List BusReply),
    s.busy = false → s.lstate = .uninitialized →
    s.busScript = .answer .ok :: busRest →
    (tableLengths s.cfg.initTable ++ [1, 1])[k]? = some n → a ≠ .ok n →
    s.txScript = okReplies ((tableLengths s.cfg.initTable ++ [1, 1]).take k) ++ .answer a :: rest →
    ∃ t, exec .initialise s = .next t ∧
      t.trace = s.trace ++ cutAtTransfer k a (bringupEvents s.cfg) ++ [.line .cs true] ∧
      t.lstate = (if k < (tableLengths s.cfg.initTable).length then .resetSettled else .registersProgrammed) ∧
      t.status = .transportError ∧ t.responses = s.responses ++ [0x01] ∧ t.busy = false ∧ t.session = .closed ∧
      t.cs = ⟨true, true, true⟩ ∧ t.rst = ⟨true, true, true⟩ ∧ t.txScript = rest ∧ t.busScript = busRest

/-- R186. CLEANUP: its encoding; one `CLOSE` event and `LSTATE <- UNINITIALIZED` whatever the answer; no line written, no
output enable cleared; refused in `UNINITIALIZED` and with a session open. -/
def Obligations.CleanupClosesTheBus : Prop :=
  encode .cleanup = [0x02] ∧
  ∀ (s : State), s.busy = false →
    (∀ (a : BusAnswer) (busRest : List BusReply),
      s.lstate ≠ .uninitialized → s.session = .closed → s.busScript = .answer a :: busRest →
      ∃ t, exec .cleanup s = .next t ∧ t.trace = s.trace ++ [.close a] ∧ t.lstate = .uninitialized ∧
        t.status = (if a = .ok then .ok else .transportError) ∧
        t.responses = s.responses ++ [if a = .ok then 0x00 else 0x01] ∧ t.busy = false ∧
        t.session = .closed ∧ t.cs = s.cs ∧ t.dc = s.dc ∧ t.rst = s.rst ∧ t.cfg = s.cfg ∧ t.inputs = s.inputs ∧
        t.txScript = s.txScript ∧ t.busScript = busRest ∧ t.ctl = s.ctl) ∧
    ((s.lstate = .uninitialized ∨ s.session ≠ .closed) →
      exec .cleanup s = .next { s with
        status := .preconditionViolation, busy := false, responses := s.responses ++ [0x02] })

/-! ## Errors -/

/-- R204. The abort path: taken on a failing `tx` and a failing `bus_setup`; one `LINE(CS,1)` if chip-select was
asserted and none otherwise; session closed, status `TRANSPORT_ERROR`, idle; `LSTATE`, `DC`, `RST` and the output enables
as they were. -/
def Obligations.AbortPathReleasesChipSelect : Prop :=
  ∀ s : State,
    (∀ src tmo ws, (Micro.mk (.tx src tmo) ws).onError s = s.abort) ∧
    (∀ ws, (Micro.mk .busSetup ws).onError s = s.abort) ∧
    s.abort.trace = s.trace ++ (if s.cs.level then [] else [.line .cs true]) ∧
    s.abort.cs.level = true ∧ s.abort.cs.oe = s.cs.oe ∧ s.abort.session = .closed ∧
    s.abort.status = .transportError ∧ s.abort.responses = s.responses ++ [0x01] ∧ s.abort.busy = false ∧
    s.abort.lstate = s.lstate ∧ s.abort.dc = s.dc ∧ s.abort.rst = s.rst ∧ s.abort.cfg = s.cfg ∧
    s.abort.inputs = s.inputs ∧ s.abort.txScript = s.txScript ∧ s.abort.busScript = s.busScript

/-- R201 (1), R204 to R206 (60_exceptions.md sections 1 and 2). If transfer number `k` of a SEND, SET_WINDOW or FILL_RECT
fails, by an error or by a count other than the length, the trace is that of success cut at the failing transfer, then
one `LINE(CS,1)`; nothing after it runs and nothing is retried. -/
def Obligations.FailedTransferEndsTheRequest : Prop :=
  ∀ (s : State) (k n : Nat) (a : TxAnswer) (rest : List TxReply) (i : Instr) (events : List Event)
    (lengths : List Nat),
    s.busy = false → s.lstate = .active → s.session = .closed →
    ((∃ cmd args, i = .send cmd args ∧ cmd ∈ s.cfg.cmdSet ∧ args.length ≤ 65535 ∧
        events = commandFrame cmd args ∧ lengths = frameLengths args) ∨
     (∃ dir x1 y1 x2 y2, i = .setWindow dir x1 y1 x2 y2 ∧
        x1.toNat ≤ x2.toNat ∧ x2.toNat < s.cfg.width ∧ y1.toNat ≤ y2.toNat ∧ y2.toNat < s.cfg.height ∧
        events = windowFrame s.cfg x1 y1 x2 y2 dir ∧ lengths = windowLengths) ∨
     (∃ x y w h color x2 y2, i = .fillRect x y w h color ∧ clipsTo s.cfg x y w h x2 y2 ∧
        events = fillEvents s.cfg x y x2 y2 color ∧ lengths = fillLengths x y x2 y2)) →
    lengths[k]? = some n → a ≠ .ok n → s.txScript = okReplies (lengths.take k) ++ .answer a :: rest →
    ∃ t, exec i s = .next t ∧
      t.trace = s.trace ++ cutAtTransfer k a events ++ [.line .cs true] ∧
      t.status = .transportError ∧ t.responses = s.responses ++ [0x01] ∧ t.busy = false ∧ t.session = .closed ∧
      t.wires = (cutAtTransfer k a events ++ [Event.line .cs true]).foldl Wires.see s.wires ∧
      t.cs.level = true ∧ t.lstate = s.lstate ∧ t.txScript = rest ∧ t.busScript = s.busScript

/-- R120. `line(p, v)` cannot fail: it writes the register of its line unconditionally, calls the control-line port with
that line's pin and level, appends `LINE(p, v)`, and leaves every other register of the framer as it was. -/
def Obligations.LineWriteSetsItsRegister : Prop :=
  ∀ (s : State) (p : Line) (v : Level),
    (MicroOp.line p v).run s = .completed (s.line p v) ∧
    (s.line p v).lineReg p = { s.lineReg p with level := v, written := true } ∧
    (∀ q, q ≠ p → (s.line p v).lineReg q = s.lineReg q) ∧
    (s.line p v).trace = s.trace ++ [.line p v] ∧
    (Event.line p v).portCall s.cfg =
      .write (match p with | .cs => s.cfg.pinCs | .dc => s.cfg.pinDc | .rst => s.cfg.pinRst) v ∧
    (s.line p v).cfg = s.cfg ∧ (s.line p v).lstate = s.lstate ∧ (s.line p v).session = s.session ∧
    (s.line p v).status = s.status ∧ (s.line p v).busy = s.busy ∧ (s.line p v).upc = s.upc ∧
    (s.line p v).lat = s.lat ∧ (s.line p v).argBuf = s.argBuf ∧ (s.line p v).rowBuf = s.rowBuf ∧
    (s.line p v).responses = s.responses ∧ (s.line p v).inputs = s.inputs

/-- R59, R122 (20_memory.md section 4, 40_micro_operations.md section 1). A `tx` succeeds on the answer `ok(len(bytes))`
and raises on every other; either way it appends one event with the answer and writes no register of the framer. -/
def Obligations.TransferSucceedsOnlyOnFullCount : Prop :=
  ∀ (s : State) (bytes : List Byte) (tmo : Timeout) (a : TxAnswer) (rest : List TxReply),
    s.txScript = .answer a :: rest →
    ∃ t, s.tx bytes tmo = (if a = .ok bytes.length then .completed t else .raised t) ∧
      t.trace = s.trace ++ [.tx bytes tmo a] ∧ t.txScript = rest ∧ t.view = s.view ∧ t.status = s.status ∧
      t.busy = s.busy ∧ t.upc = s.upc ∧ t.lat = s.lat ∧ t.argBuf = s.argBuf ∧ t.responses = s.responses

/-- R36. After `TRANSPORT_ERROR` the session is closed and chip-select, if driven, is released; after
`PRECONDITION_VIOLATION` nothing but `STATUS` (and the response byte) has changed. For a request from its acceptance on,
and for every step that answers one, be it a request the transport kept waiting. -/
def Obligations.ErrorsLeaveTheBusIdle : Prop :=
  (∀ (s t : State) (i : Instr), s.inv → s.busy = false → exec i s = .next t → t.busy = false →
    (t.status = .transportError → t.session = .closed ∧ (t.cs.oe = true → t.cs.level = true)) ∧
    (t.status = .preconditionViolation → t = { s with
      status := .preconditionViolation, responses := s.responses ++ [0x02] })) ∧
  (∀ s t : State, s.inv → step s = .next t → t.busy = false → t.responses = s.responses ++ [t.status.byte] →
    (t.status = .transportError → t.session = .closed ∧ (t.cs.oe = true → t.cs.level = true)) ∧
    (t.status = .preconditionViolation → ∃ p rest, s.busy = false ∧ s.inputs = .packet p :: rest ∧
      t = { s with inputs := rest, status := .preconditionViolation, responses := s.responses ++ [0x02] }))

/-! ## Invariants -/

/-- The machine's invariants hold right after reset; the clause on the parameters is about the model's reference instance
(logs 1 and 2). -/
def Obligations.InvariantAtReset : Prop :=
  State.reset.inv ∧ State.reset.traceSafe ∧ State.reset.lifecycleInv ∧ State.reset.windowInv

/-- Every step keeps the invariant: legal parameters, frame memory in canonical form, and the framer at rest between
requests (R33, R190) or on a safe way through its micro-program (R31, R34, R35). -/
def Obligations.StepKeepsInvariant : Prop :=
  ∀ s t : State, s.inv → step s = .next t → t.inv

/-- Every step in R126's sense, one micro-operation with its register writes, keeps the invariant too; and acceptance
establishes it at `UPC = 0`, so that it holds at every micro-operation a request makes inside exec
(RequestIsItsMicroSteps). -/
def Obligations.MicroStepKeepsInvariant : Prop :=
  (∀ s : State, s.inv → s.microStep.inv) ∧
  (∀ (s a : State) (i : Instr), s.inv → s.busy = false → i.wellFormed = true → s.accepted i = some a →
    a.inv ∧ a.busy = true ∧ a.upc = 0)

/-- R34, R35, R31 as facts about the trace (10_state.md section 7, 70_reset_and_hazards.md R244, R245): every step keeps
the whole trace since reset free of a transfer outside its levels or phase and of a write to an undriven line, and the
line registers what the trace says. -/
def Obligations.StepKeepsTraceSafety : Prop :=
  ∀ s t : State, s.inv → s.traceSafe → step s = .next t → t.traceSafe

/-- R33. The session-line invariant, in every state that meets the machine's invariant. -/
def Obligations.ChipSelectMatchesSession : Prop :=
  ∀ s : State, s.inv → s.busy = false →
    (s.cs.oe = true → (s.cs.level = true ↔ s.session = .closed)) ∧
    (s.session ≠ .closed → s.cs.level = false ∧ s.dc.level = true ∧ s.lstate = .active)

/-- R34. When the next micro-operation of a running request is a transfer, all output enables are 1, `CS = 0`,
`RST = 1` and `LSTATE` is one of the three states; and R35's phase holds. -/
def Obligations.TransfersOnlyInsideASession : Prop :=
  ∀ (s : State) (ms : List Micro) (src : TxSource) (tmo : Timeout) (ws : List RegWrite),
    s.inv → s.busy = true → microProgram s.cfg s.lat = some ms → ms[s.upc]? = some ⟨.tx src tmo, ws⟩ →
    s.cs.oe = true ∧ s.dc.oe = true ∧ s.rst.oe = true ∧ s.cs.level = false ∧ s.rst.level = true ∧
    (s.lstate = .resetSettled ∨ s.lstate = .registersProgrammed ∨ s.lstate = .active) ∧
    1 ≤ (src.read s).length ∧ (s.dc.level = false → (src.read s).length = 1)

/-- R249 (70_reset_and_hazards.md section 3), under the reference controller of R66 (log 13). Window before pixels:
whenever a session for writing is open between requests the controller is in a memory-write with a window inside the
panel. Every request, whether it is answered or kept waiting, and every step, that of a request the transport kept waiting
included, keeps that so; in the middle of a request it says so of the request's end. -/
def Obligations.OpenWriteSessionHasAWindow : Prop :=
  (∀ s : State, s.windowInv → s.busy = false → s.session = .openWrite →
    s.ctl.op = .ramwr ∧ s.ctl.cx1.toNat ≤ s.ctl.cx2.toNat ∧ s.ctl.cx2.toNat < s.cfg.width ∧
      s.ctl.py1.toNat ≤ s.ctl.py2.toNat ∧ s.ctl.py2.toNat < s.cfg.height) ∧
  (∀ (s t : State) (i : Instr), s.inv → s.windowInv → s.busy = false → exec i s = .next t → t.windowInv) ∧
  (∀ s t : State, s.inv → s.windowInv → step s = .next t → t.windowInv)

/-! ## The whole machine -/

/-- R126 (40_micro_operations.md section 2). A request is its steps in R126's sense, one after another. exec of a request
that is admitted with legal operands and has something to do is what finitely many `microStep`s make of the accepted
state, which starts at `UPC = 0`; any other request is refused or, if it is a FILL_RECT with nothing to draw, answered
`OK`; and the rest of a running request, from its `UPC` on, is what finitely many `microStep`s make of it. -/
def Obligations.RequestIsItsMicroSteps : Prop :=
  (∀ (s a : State) (i : Instr), s.accepted i = some a →
    a.busy = true ∧ a.upc = 0 ∧
    ∃ n ms, microProgram a.cfg a.lat = some ms ∧ n ≤ ms.length + 1 ∧ exec i s = .next (microSteps n a)) ∧
  (∀ (s : State) (i : Instr), s.accepted i = none →
    exec i s = .next s.refuse ∨ ((∃ x y w h color, i = .fillRect x y w h color) ∧ exec i s = .next (s.answer .ok))) ∧
  (∀ s t : State, s.busy = true → s.resume = .next t →
    ∃ n ms, microProgram s.cfg s.lat = some ms ∧ n ≤ ms.length - s.upc + 1 ∧ microSteps n s = t)

/-- R253 (70_reset_and_hazards.md section 5), R81. Every request terminates where the transport answers every call (log 9):
`BUSY = 0` again, exactly one response, the status. -/
def Obligations.EveryRequestTerminates : Prop :=
  ∀ (s : State) (i : Instr), s.busy = false → s.answersAtOnce →
    ∃ t, exec i s = .next t ∧ t.busy = false ∧ t.responses = s.responses ++ [t.status.byte]

/-- R39 (10_state.md section 9). Whether the framer has a next step never depends on the transport: in every idle state
every request answers a next state. -/
def Obligations.EveryRequestHasANextState : Prop :=
  ∀ (s : State) (i : Instr) (tx : List TxReply) (bus : List BusReply),
    ∃ t u, exec i s = .next t ∧ exec i { s with txScript := tx, busScript := bus } = .next u

/-- R37. The framer cannot read the controller: two states that differ only in the controller go on to states that
differ only in the controller. -/
def Obligations.FramerIgnoresController : Prop :=
  ∀ (s t : State) (c : Controller), step s = .next t →
    ∃ d, step { s with ctl := c } = .next { t with ctl := d }

/-- R21 (10_state.md section 1). No step changes the parameters. -/
def Obligations.ParametersNeverChange : Prop :=
  ∀ s t : State, step s = .next t → t.cfg = s.cfg

/-- R38 (10_state.md section 9). The trace is never shortened, except that the framer's own reset starts a new one. -/
def Obligations.TraceOnlyGrows : Prop :=
  ∀ s t : State, step s = .next t → (∀ rest, s.inputs ≠ .ownReset :: rest) → s.trace <+: t.trace

/-- R187 (44_bringup.md section 3). No request but INITIALIZE and CLEANUP changes `LSTATE`; INITIALIZE only moves it
forward from `UNINITIALIZED`, and to `ACTIVE` exactly when it answers `OK`; CLEANUP only sets it to `UNINITIALIZED`. For a
request from its acceptance on, and for every step but the own reset's, be it the rest of a request the transport kept
waiting. -/
def Obligations.LifecycleChangesOnlyByItsTable : Prop :=
  (∀ (s t : State) (i : Instr), s.busy = false → exec i s = .next t →
    (i ≠ .initialise → i ≠ .cleanup → t.lstate = s.lstate) ∧
    (i = .cleanup → t.lstate = s.lstate ∨ t.lstate = .uninitialized) ∧
    (i = .initialise → s.lstate ≠ .uninitialized → t.lstate = s.lstate) ∧
    (i = .initialise → s.lstate = .uninitialized → t.busy = false →
      (t.status = .ok ↔ t.lstate = .active) ∧ t.lstate ≠ .busConfigured)) ∧
  (∀ s t : State, s.lifecycleInv → step s = .next t → (∀ rest, s.inputs ≠ .ownReset :: rest) →
    (s.currentOpcode ≠ some 0x01 → s.currentOpcode ≠ some 0x02 → t.lstate = s.lstate) ∧
    (s.currentOpcode = some 0x02 → t.lstate = s.lstate ∨ t.lstate = .uninitialized) ∧
    (s.currentOpcode = some 0x01 →
      s.lstate.code.toNat ≤ t.lstate.code.toNat ∧
      (s.busy = false → s.lstate ≠ .uninitialized → t.lstate = s.lstate) ∧
      (s.busy = true ∨ s.lstate = .uninitialized → t.busy = false →
        (t.status = .ok ↔ t.lstate = .active) ∧ t.lstate ≠ .busConfigured)))

/-- R187, R22 (44_bringup.md section 3, 10_state.md section 2). "No transition skips a state": one step of INITIALIZE, in
R126's sense, leaves `LSTATE` or moves it to the next of the five; and `LSTATE` is, at every step of the machine, what
INITIALIZE's steps so far have made of `UNINITIALIZED`. -/
def Obligations.InitializeSkipsNoLifecycleState : Prop :=
  (∀ s : State, s.cfg.Valid → s.lifecycleInv → s.busy = true → s.lat.opr = 0x01 →
    s.microStep.lstate = s.lstate ∨ s.microStep.lstate.code.toNat = s.lstate.code.toNat + 1) ∧
  (∀ s t : State, s.lifecycleInv → step s = .next t → t.lifecycleInv)

/-- R23 (10_state.md section 2). A session held open between requests comes only from SET_WINDOW: every other request
leaves `SESSION` as it was or closed. For a request from its acceptance on, and for every step, be it the rest of a
request the transport kept waiting. -/
def Obligations.OnlySetWindowOpensASession : Prop :=
  (∀ (s t : State) (i : Instr), s.busy = false → exec i s = .next t → t.busy = false → t.session ≠ .closed →
    t.session = s.session ∨
      ∃ dir x1 y1 x2 y2, i = .setWindow dir x1 y1 x2 y2 ∧ t.session = Session.ofDir dir) ∧
  (∀ s t : State, step s = .next t → t.busy = false → t.session ≠ .closed →
    t.session = s.session ∨
    (s.busy = true ∧ s.lat.opr = 0x20 ∧ t.session = Session.ofDir s.lat.dir) ∨
    (s.busy = false ∧ ∃ p rest dir x1 y1 x2 y2, s.inputs = .packet p :: rest ∧
      decode p = .ok (.setWindow dir x1 y1 x2 y2) ∧ t.session = Session.ofDir dir))

/-- R82, R24, R25, R27 (30_encoding.md section 1, 10_state.md sections 3 and 4). Acceptance copies the packet into the
operand latches and `ARGBUF` and sets `UPC` to 0; latches and `ARGBUF` hold, and `UPC` counts the micro-operations done,
until the response. So a request that the transport keeps waiting is found in its latches, at the `UPC` its events say;
END_SESSION, which makes no transport call, is never kept waiting. -/
def Obligations.AcceptanceLatchesTheRequest : Prop :=
  (∀ (s t : State) (i : Instr), s.cfg.Valid → i.wellFormed = true → s.busy = false → exec i s = .next t →
    t.busy = true →
    t.trace.length = s.trace.length + t.upc ∧
    (match i with
      | .initialise => t.lat.opr = 0x01
      | .cleanup => t.lat.opr = 0x02
      | .sendBare cmd => t.lat.opr = 0x10 ∧ t.lat.cmd = cmd
      | .send cmd args => t.lat.opr = 0x11 ∧ t.lat.cmd = cmd ∧ t.lat.narg.toNat = args.length ∧ t.argBuf = args
      | .setWindow dir x1 y1 x2 y2 =>
        t.lat.opr = 0x20 ∧ t.lat.dir = dir ∧ t.lat.x1 = x1 ∧ t.lat.y1 = y1 ∧ t.lat.x2 = x2 ∧ t.lat.y2 = y2
      | .stream data => t.lat.opr = 0x21 ∧ t.lat.narg.toNat = data.length ∧ t.argBuf = data
      | .endSession => False
      | .fillRect x y w h color =>
        t.lat.opr = 0x30 ∧ t.lat.x = x ∧ t.lat.y = y ∧ t.lat.w = w ∧ t.lat.h = h ∧ t.lat.color = color ∧
          t.lat.x1 = x ∧ t.lat.y1 = y ∧ clipsTo s.cfg x y w h t.lat.x2 t.lat.y2)) ∧
  (∀ s t : State, s.busy = true → step s = .next t → t.busy = true →
    t.lat = s.lat ∧ t.argBuf = s.argBuf ∧ t.trace.length + s.upc = s.trace.length + t.upc)

/-! ## Frames -/

/-- 41_command_encoder.md to 44_bringup.md. What each request leaves alone, whatever the transport answers: grouped by
request. `RST` is written and output enables are set by INITIALIZE only; STREAM, END_SESSION and CLEANUP never write
`DC`; CLEANUP writes no line. -/
def Obligations.RequestsKeepOtherRegisters : Prop :=
  ∀ (s t : State) (i : Instr), s.busy = false → exec i s = .next t →
    t.cfg = s.cfg ∧ t.inputs = s.inputs ∧
    (i ≠ .initialise →
      t.rst = s.rst ∧ t.cs.oe = s.cs.oe ∧ t.dc.oe = s.dc.oe) ∧
    (i ≠ .initialise → i ≠ .cleanup → t.busScript = s.busScript) ∧
    (((∃ data, i = .stream data) ∨ i = .endSession ∨ i = .cleanup) → t.dc = s.dc) ∧
    (i = .cleanup → t.cs = s.cs ∧ t.session = s.session ∧ t.txScript = s.txScript) ∧
    (i = .endSession → t.txScript = s.txScript) ∧
    (((∃ cmd, i = .sendBare cmd) ∨ ∃ cmd args, i = .send cmd args) → t.session = s.session)

/-- 20_memory.md R66 (logs 13, 15). Every byte of the frame memory is as before, whatever the transport answers, after
CLEANUP; END_SESSION; SET_WINDOW; SEND_BARE; SEND of an opcode other than memory-write, or with fewer than two argument
bytes; STREAM that is refused, finds the controller taking no pixels, or completes none; FILL_RECT that is refused or has
nothing to draw; and INITIALIZE that is refused. -/
def Obligations.FrameMemoryKeptByNonStoringRequests : Prop :=
  ∀ (s t : State) (i : Instr), s.cfg.Valid → s.busy = false → exec i s = .next t →
    (i = .cleanup ∨ i = .endSession ∨ (∃ dir x1 y1 x2 y2, i = .setWindow dir x1 y1 x2 y2) ∨
      (∃ cmd, i = .sendBare cmd) ∨
      (∃ cmd args, i = .send cmd args ∧ (cmd ≠ s.cfg.opcRamwr ∨ args.length < 2)) ∨
      (∃ data, i = .stream data ∧ (s.session ≠ .openWrite ∨ s.ctl.op ≠ .ramwr ∨ s.dc.level = false ∨
        s.cs.level = true ∨ (s.ctl.params = [] ∧ data.length < 2))) ∨
      (∃ x y w h color, i = .fillRect x y w h color ∧ (s.lstate ≠ .active ∨ s.session ≠ .closed ∨
        s.cfg.width ≤ x.toNat ∨ s.cfg.height ≤ y.toNat ∨ w = 0 ∨ h = 0)) ∨
      (i = .initialise ∧ s.lstate ≠ .uninitialized)) →
    ∀ a, t.ctl.fb.read a = s.ctl.fb.read a

/-- R243, U12 (70_reset_and_hazards.md section 2, 93_implementation_defined.md) under the reference controller of R66 (logs
13, 16). What the reset pulse leaves in the frame memory is not given, so no byte of it is known from then on, and bring-up
writes no pixel as long as `INIT_TABLE` holds no memory-write; an INITIALIZE that ends or waits before the pulse leaves the
frame memory as it was. -/
def Obligations.BringupLeavesNoPixelKnown : Prop :=
  ∀ s t : State, s.cfg.Valid → s.busy = false → s.lstate = .uninitialized → exec .initialise s = .next t →
    (t.lstate ≠ .uninitialized → (∀ e ∈ s.cfg.initTable, e.opc ≠ s.cfg.opcRamwr) →
      ∀ a, t.ctl.fb.read a = none) ∧
    (t.lstate = .uninitialized → ∀ a, t.ctl.fb.read a = s.ctl.fb.read a)

/-- 20_memory.md R66 (logs 13 to 15). STREAM into an open memory-write stores only into the window's next pixels: every
byte of the frame memory outside the pixels `ORDER(k), ORDER(k+1), …` that its bytes complete is as before, whatever the
transport answers. -/
def Obligations.StreamStoresOnlyIntoNextPixels : Prop :=
  ∀ (s t : State) (data : List Byte), s.cfg.Valid → s.busy = false → exec (.stream data) s = .next t →
    s.ctl.op = .ramwr → s.dc.level = true →
    s.ctl.k + (data.length + 1) / 2 ≤ s.ctl.columns * s.ctl.rows →
    ∀ a, (∀ j, j < (data.length + 1) / 2 →
        a ≠ pixelAddress (s.ctl.order s.cfg.scanOrder (s.ctl.k + j)).1 (s.ctl.order s.cfg.scanOrder (s.ctl.k + j)).2 ∧
        a ≠ pixelAddress (s.ctl.order s.cfg.scanOrder (s.ctl.k + j)).1
              (s.ctl.order s.cfg.scanOrder (s.ctl.k + j)).2 + 1) →
      t.ctl.fb.read a = s.ctl.fb.read a

/-- 20_memory.md R66 (logs 13 to 15). SEND of the memory-write opcode stores only into the first pixels of the window the
controller has: every byte of the frame memory outside the pixels `ORDER(0), ORDER(1), …` that its argument bytes
complete is as before, whatever the transport answers. -/
def Obligations.MemoryWriteSendStoresFromFirstPixel : Prop :=
  ∀ (s t : State) (args : List Byte), s.cfg.Valid → s.busy = false →
    exec (.send s.cfg.opcRamwr args) s = .next t →
    args.length / 2 ≤ s.ctl.columns * s.ctl.rows →
    ∀ a, (∀ j, j < args.length / 2 →
        a ≠ pixelAddress (s.ctl.order s.cfg.scanOrder j).1 (s.ctl.order s.cfg.scanOrder j).2 ∧
        a ≠ pixelAddress (s.ctl.order s.cfg.scanOrder j).1 (s.ctl.order s.cfg.scanOrder j).2 + 1) →
      t.ctl.fb.read a = s.ctl.fb.read a

/-- 20_memory.md R66 (logs 13 to 15). A successful STREAM of one pixel's two bytes stores that pixel at `ORDER(k)`, the
window's next pixel, and moves the counter on. -/
def Obligations.StreamStoresThePixelAtTheCounter : Prop :=
  ∀ (s t : State) (color : Word16), s.cfg.Valid → s.busy = false → s.session = .openWrite →
    exec (.stream [hi color, lo color]) s = .next t → t.busy = false → t.status = .ok →
    s.ctl.op = .ramwr → s.ctl.params = [] → s.dc.level = true → s.cs.level = false →
    s.ctl.k < s.ctl.columns * s.ctl.rows →
    t.ctl.pixel (s.ctl.order s.cfg.scanOrder s.ctl.k).1 (s.ctl.order s.cfg.scanOrder s.ctl.k).2 = some color ∧
    t.ctl.k = s.ctl.k + 1 ∧ t.ctl.op = .ramwr ∧ t.ctl.params = []

/-! ## Data formats -/

/-- R53, R52. The two bytes of a pixel go out high byte first; a window bound as its two big-endian halves; reading two
bytes back as a big-endian operand (R83) gives the value. -/
def Obligations.SixteenBitValuesGoOutHighByteFirst : Prop :=
  (∀ v : Word16, be16 v = [v.extractLsb' 8 8, v.extractLsb' 0 8]) ∧
  (∀ v : Word16, word16 (hi v) (lo v) = v) ∧
  (∀ a b : Word16, boundBytes a b =
    [a.extractLsb' 8 8, a.extractLsb' 0 8, b.extractLsb' 8 8, b.extractLsb' 0 8]) ∧
  be16 0b0000011111111111 = [0x07, 0xFF]

/-- R102. The nine colour names and their exact bit patterns. -/
def Obligations.ColourNamesHaveTheirPatterns : Prop :=
  Color.white.value = 0xFFFF ∧ Color.black.value = 0x0000 ∧ Color.red.value = 0xF800 ∧
  Color.green.value = 0x07E0 ∧ Color.blue.value = 0x001F ∧ Color.yellow.value = 0xFFE0 ∧
  Color.cyan.value = 0x07FF ∧ Color.magenta.value = 0xF81F ∧ Color.gray.value = 0x8410

/-- R120 to R125, R218 to R220 (40_micro_operations.md section 1). Each event stands for one call on a collaborator
port with the parameters the rule names, for every line, both timeouts and all five delays. -/
def Obligations.EventsAreTheirPortCalls : Prop :=
  ∀ c : Config,
    (∀ p v, (Event.line p v).portCall c =
      .write (match p with | .cs => c.pinCs | .dc => c.pinDc | .rst => c.pinRst) v) ∧
    (∀ p, (Event.mode p).portCall c =
      .setOutputMode (match p with | .cs => c.pinCs | .dc => c.pinDc | .rst => c.pinRst)) ∧
    (∀ bytes tmo a, (Event.tx bytes tmo a).portCall c =
      .send c.busId bytes (match tmo with | .cmd => c.cmdTimeout | .row => c.rowTimeout)) ∧
    (∀ a, (Event.setup a).portCall c = .setup c.busId c.spiMode c.baud c.bitOrder c.busPins c.pullMode) ∧
    (∀ a, (Event.close a).portCall c = .close c.busId) ∧
    (∀ d, (Event.delay d).portCall c =
      .wait (match d with
        | .rstLow => c.tRstLow
        | .rstHigh => c.tRstHigh
        | .settle => c.tSettle
        | .slpout => c.tSlpout
        | .dispon => c.tDispon))

/-- R100 (30_encoding.md section 7). Lines of the textual syntax and the requests they stand for. -/
def Obligations.SampleLinesAssemble : Prop :=
  parseLine "cleanup".toList = some .cleanup ∧
  parseLine "send 0x36, [0x48, 0b11]".toList = some (.send 0x36 [0x48, 0x03]) ∧
  parseLine "set_window 5, 7, 0x10, 8, read".toList = some (.setWindow .read 5 7 16 8) ∧
  parseLine "fill_rect 310, 311, 50, 51, cyan".toList = some (.fillRect 310 311 50 51 0x07FF)
end

