-- ==== Sys2Proof/Laws/Memory.lean ====
section
/-! SUPPORT. Frame memory: a read after a write, and every operation of the controller keeps the canonical form. -/

namespace Sys2Proof.Machine

@[simp] theorem Memory.read_nil (a : Nat) : Memory.read [] a = none := rfl

theorem Memory.read_write_same (m : Memory) (a : Nat) (v : Byte) : (m.write a v).read a = some v := by
  induction m with
  | nil => simp [Memory.write, Memory.read]
  | cons c rest ih =>
    obtain ⟨b, u⟩ := c
    by_cases h1 : a < b
    · simp [Memory.write, Memory.read, h1]
    · by_cases h2 : a = b <;> simp [Memory.write, Memory.read, h1, h2, ih]

theorem Memory.read_write_other (m : Memory) (a b : Nat) (v : Byte) (h : b ≠ a) :
    (m.write a v).read b = m.read b := by
  induction m with
  | nil => simp [Memory.write, Memory.read, h]
  | cons c rest ih =>
    obtain ⟨d, u⟩ := c
    by_cases h1 : a < d
    · simp [Memory.write, Memory.read, h1, h]
    · by_cases h2 : a = d
      · subst h2; simp [Memory.write, Memory.read, h]
      · simp [Memory.write, Memory.read, h1, h2, ih]

/-- A write keeps every address above a bound that lies below the written address. -/
theorem Memory.write_bound (m : Memory) (a n : Nat) (v : Byte) (hn : n < a) (h : ∀ c ∈ m, n < c.1) :
    ∀ c ∈ m.write a v, n < c.1 := by
  induction m with
  | nil => simpa [Memory.write] using hn
  | cons c rest ih =>
    obtain ⟨d, u⟩ := c
    simp only [List.mem_cons, forall_eq_or_imp] at h
    simp only [Memory.write]
    split_ifs
    · simpa [hn] using h
    · simpa [hn] using h.2
    · simpa [h.1] using ih h.2

theorem Memory.write_wf (m : Memory) (a : Nat) (v : Byte) (h : m.wf) : (m.write a v).wf := by
  induction m with
  | nil => simp [Memory.write]
  | cons c rest ih =>
    obtain ⟨d, u⟩ := c
    simp only [Memory.wf, List.pairwise_cons] at h
    simp only [Memory.write]
    split_ifs with h1 h2
    · simp only [Memory.wf, List.pairwise_cons, List.mem_cons, forall_eq_or_imp]
      exact ⟨⟨h1, fun x hx => h1.trans (h.1 x hx)⟩, h⟩
    · subst h2
      simp only [Memory.wf, List.pairwise_cons]
      exact h
    · simp only [Memory.wf, List.pairwise_cons]
      exact ⟨Memory.write_bound rest a d v (by omega) h.1, ih h.2⟩

theorem pixelAddress_inj {c r c' r' : Nat} (hc : c < 65536) (hc' : c' < 65536)
    (h : pixelAddress c r = pixelAddress c' r') : c = c' ∧ r = r' := by
  unfold pixelAddress at h
  omega

theorem pixelAddress_ne_succ (c r c' r' : Nat) : pixelAddress c r ≠ pixelAddress c' r' + 1 := by
  unfold pixelAddress
  omega

theorem Controller.storePixel_wf (g : Config) (c : Controller) (h l : Byte) (hw : c.fb.wf) :
    (c.storePixel g h l).fb.wf := by
  unfold Controller.storePixel
  dsimp only
  split_ifs
  · exact Memory.write_wf _ _ _ (Memory.write_wf _ _ _ hw)
  · exact List.Pairwise.nil

theorem Controller.opcode_fb (g : Config) (c : Controller) (b : Byte) : (c.opcode g b).fb = c.fb := by
  unfold Controller.opcode
  split_ifs <;> rfl

theorem Controller.param_wf (g : Config) (c : Controller) (b : Byte) (hw : c.fb.wf) : (c.param g b).fb.wf := by
  unfold Controller.param
  repeat' split
  all_goals first | exact hw | exact Controller.storePixel_wf g c _ _ hw

theorem Controller.receive_wf (g : Config) (cs dc : Level) (bytes : List Byte) (c : Controller) (hw : c.fb.wf) :
    (c.receive g cs dc bytes).fb.wf := by
  unfold Controller.receive
  split
  · exact hw
  · induction bytes generalizing c with
    | nil => exact hw
    | cons b bs ih =>
      apply ih
      split
      · exact Controller.param_wf g c b hw
      · rw [Controller.opcode_fb]; exact hw

theorem Controller.pulsed_wf (n : Nat) : (Controller.pulsed n).fb.wf := List.Pairwise.nil

theorem Controller.unknown_wf (n : Nat) : (Controller.unknown n).fb.wf := List.Pairwise.nil

end Sys2Proof.Machine
end

