-- ==== Sys2Proof/Laws/State.lean ====
section
/-! SUPPORT. What each update of the state does to each field, true by definition. Later proofs rewrite with these and
never unfold a record update. -/

namespace Sys2Proof.Machine

/-! ### `State.emit` -/

@[simp] theorem State.emit_cfg (e : Event) (s : State) : (s.emit e).cfg = s.cfg := rfl
@[simp] theorem State.emit_lstate (e : Event) (s : State) : (s.emit e).lstate = s.lstate := rfl
@[simp] theorem State.emit_session (e : Event) (s : State) : (s.emit e).session = s.session := rfl
@[simp] theorem State.emit_cs (e : Event) (s : State) : (s.emit e).cs = s.cs := rfl
@[simp] theorem State.emit_dc (e : Event) (s : State) : (s.emit e).dc = s.dc := rfl
@[simp] theorem State.emit_rst (e : Event) (s : State) : (s.emit e).rst = s.rst := rfl
@[simp] theorem State.emit_status (e : Event) (s : State) : (s.emit e).status = s.status := rfl
@[simp] theorem State.emit_busy (e : Event) (s : State) : (s.emit e).busy = s.busy := rfl
@[simp] theorem State.emit_upc (e : Event) (s : State) : (s.emit e).upc = s.upc := rfl
@[simp] theorem State.emit_lat (e : Event) (s : State) : (s.emit e).lat = s.lat := rfl
@[simp] theorem State.emit_argBuf (e : Event) (s : State) : (s.emit e).argBuf = s.argBuf := rfl
@[simp] theorem State.emit_rowBuf (e : Event) (s : State) : (s.emit e).rowBuf = s.rowBuf := rfl
@[simp] theorem State.emit_trace (e : Event) (s : State) : (s.emit e).trace = s.trace ++ [e] := rfl
@[simp] theorem State.emit_responses (e : Event) (s : State) : (s.emit e).responses = s.responses := rfl
@[simp] theorem State.emit_inputs (e : Event) (s : State) : (s.emit e).inputs = s.inputs := rfl
@[simp] theorem State.emit_txScript (e : Event) (s : State) : (s.emit e).txScript = s.txScript := rfl
@[simp] theorem State.emit_busScript (e : Event) (s : State) : (s.emit e).busScript = s.busScript := rfl
@[simp] theorem State.emit_freeCount (e : Event) (s : State) : (s.emit e).freeCount = s.freeCount := rfl
@[simp] theorem State.emit_ctl (e : Event) (s : State) : (s.emit e).ctl = s.ctl := rfl

/-! ### `State.pulseController` -/

@[simp] theorem State.pulseController_cfg (s : State) : (s.pulseController).cfg = s.cfg := rfl
@[simp] theorem State.pulseController_lstate (s : State) : (s.pulseController).lstate = s.lstate := rfl
@[simp] theorem State.pulseController_session (s : State) : (s.pulseController).session = s.session := rfl
@[simp] theorem State.pulseController_cs (s : State) : (s.pulseController).cs = s.cs := rfl
@[simp] theorem State.pulseController_dc (s : State) : (s.pulseController).dc = s.dc := rfl
@[simp] theorem State.pulseController_rst (s : State) : (s.pulseController).rst = s.rst := rfl
@[simp] theorem State.pulseController_status (s : State) : (s.pulseController).status = s.status := rfl
@[simp] theorem State.pulseController_busy (s : State) : (s.pulseController).busy = s.busy := rfl
@[simp] theorem State.pulseController_upc (s : State) : (s.pulseController).upc = s.upc := rfl
@[simp] theorem State.pulseController_lat (s : State) : (s.pulseController).lat = s.lat := rfl
@[simp] theorem State.pulseController_argBuf (s : State) : (s.pulseController).argBuf = s.argBuf := rfl
@[simp] theorem State.pulseController_rowBuf (s : State) : (s.pulseController).rowBuf = s.rowBuf := rfl
@[simp] theorem State.pulseController_trace (s : State) : (s.pulseController).trace = s.trace := rfl
@[simp] theorem State.pulseController_responses (s : State) : (s.pulseController).responses = s.responses := rfl
@[simp] theorem State.pulseController_inputs (s : State) : (s.pulseController).inputs = s.inputs := rfl
@[simp] theorem State.pulseController_txScript (s : State) : (s.pulseController).txScript = s.txScript := rfl
@[simp] theorem State.pulseController_busScript (s : State) : (s.pulseController).busScript = s.busScript := rfl
@[simp] theorem State.pulseController_freeCount (s : State) : (s.pulseController).freeCount = s.freeCount + 1 := rfl
@[simp] theorem State.pulseController_ctl (s : State) : (s.pulseController).ctl = Controller.pulsed s.freeCount := rfl

/-! ### `State.deliver` -/

@[simp] theorem State.deliver_cfg (bs : List Byte) (s : State) : (s.deliver bs).cfg = s.cfg := rfl
@[simp] theorem State.deliver_lstate (bs : List Byte) (s : State) : (s.deliver bs).lstate = s.lstate := rfl
@[simp] theorem State.deliver_session (bs : List Byte) (s : State) : (s.deliver bs).session = s.session := rfl
@[simp] theorem State.deliver_cs (bs : List Byte) (s : State) : (s.deliver bs).cs = s.cs := rfl
@[simp] theorem State.deliver_dc (bs : List Byte) (s : State) : (s.deliver bs).dc = s.dc := rfl
@[simp] theorem State.deliver_rst (bs : List Byte) (s : State) : (s.deliver bs).rst = s.rst := rfl
@[simp] theorem State.deliver_status (bs : List Byte) (s : State) : (s.deliver bs).status = s.status := rfl
@[simp] theorem State.deliver_busy (bs : List Byte) (s : State) : (s.deliver bs).busy = s.busy := rfl
@[simp] theorem State.deliver_upc (bs : List Byte) (s : State) : (s.deliver bs).upc = s.upc := rfl
@[simp] theorem State.deliver_lat (bs : List Byte) (s : State) : (s.deliver bs).lat = s.lat := rfl
@[simp] theorem State.deliver_argBuf (bs : List Byte) (s : State) : (s.deliver bs).argBuf = s.argBuf := rfl
@[simp] theorem State.deliver_rowBuf (bs : List Byte) (s : State) : (s.deliver bs).rowBuf = s.rowBuf := rfl
@[simp] theorem State.deliver_trace (bs : List Byte) (s : State) : (s.deliver bs).trace = s.trace := rfl
@[simp] theorem State.deliver_responses (bs : List Byte) (s : State) : (s.deliver bs).responses = s.responses := rfl
@[simp] theorem State.deliver_inputs (bs : List Byte) (s : State) : (s.deliver bs).inputs = s.inputs := rfl
@[simp] theorem State.deliver_txScript (bs : List Byte) (s : State) : (s.deliver bs).txScript = s.txScript := rfl
@[simp] theorem State.deliver_busScript (bs : List Byte) (s : State) : (s.deliver bs).busScript = s.busScript := rfl
@[simp] theorem State.deliver_freeCount (bs : List Byte) (s : State) : (s.deliver bs).freeCount = s.freeCount := rfl
@[simp] theorem State.deliver_ctl (bs : List Byte) (s : State) :
    (s.deliver bs).ctl = s.ctl.receive s.cfg s.cs.level s.dc.level bs := rfl

/-! ### `State.deliverPrefix` -/

@[simp] theorem State.deliverPrefix_cfg (bs : List Byte) (s : State) : (s.deliverPrefix bs).cfg = s.cfg := rfl
@[simp] theorem State.deliverPrefix_lstate (bs : List Byte) (s : State) :
    (s.deliverPrefix bs).lstate = s.lstate := rfl
@[simp] theorem State.deliverPrefix_session (bs : List Byte) (s : State) :
    (s.deliverPrefix bs).session = s.session := rfl
@[simp] theorem State.deliverPrefix_cs (bs : List Byte) (s : State) : (s.deliverPrefix bs).cs = s.cs := rfl
@[simp] theorem State.deliverPrefix_dc (bs : List Byte) (s : State) : (s.deliverPrefix bs).dc = s.dc := rfl
@[simp] theorem State.deliverPrefix_rst (bs : List Byte) (s : State) : (s.deliverPrefix bs).rst = s.rst := rfl
@[simp] theorem State.deliverPrefix_status (bs : List Byte) (s : State) :
    (s.deliverPrefix bs).status = s.status := rfl
@[simp] theorem State.deliverPrefix_busy (bs : List Byte) (s : State) : (s.deliverPrefix bs).busy = s.busy := rfl
@[simp] theorem State.deliverPrefix_upc (bs : List Byte) (s : State) : (s.deliverPrefix bs).upc = s.upc := rfl
@[simp] theorem State.deliverPrefix_lat (bs : List Byte) (s : State) : (s.deliverPrefix bs).lat = s.lat := rfl
@[simp] theorem State.deliverPrefix_argBuf (bs : List Byte) (s : State) :
    (s.deliverPrefix bs).argBuf = s.argBuf := rfl
@[simp] theorem State.deliverPrefix_rowBuf (bs : List Byte) (s : State) :
    (s.deliverPrefix bs).rowBuf = s.rowBuf := rfl
@[simp] theorem State.deliverPrefix_trace (bs : List Byte) (s : State) : (s.deliverPrefix bs).trace = s.trace := rfl
@[simp] theorem State.deliverPrefix_responses (bs : List Byte) (s : State) :
    (s.deliverPrefix bs).responses = s.responses := rfl
@[simp] theorem State.deliverPrefix_inputs (bs : List Byte) (s : State) :
    (s.deliverPrefix bs).inputs = s.inputs := rfl
@[simp] theorem State.deliverPrefix_txScript (bs : List Byte) (s : State) :
    (s.deliverPrefix bs).txScript = s.txScript := rfl
@[simp] theorem State.deliverPrefix_busScript (bs : List Byte) (s : State) :
    (s.deliverPrefix bs).busScript = s.busScript := rfl
@[simp] theorem State.deliverPrefix_freeCount (bs : List Byte) (s : State) :
    (s.deliverPrefix bs).freeCount = s.freeCount + 1 := rfl
@[simp] theorem State.deliverPrefix_ctl (bs : List Byte) (s : State) :
    (s.deliverPrefix bs).ctl =
      s.ctl.receive s.cfg s.cs.level s.dc.level (bs.take (Config.freePrefix s.freeCount)) := rfl

/-! ### `State.accept` -/

@[simp] theorem State.accept_cfg (lat : Latches) (buf : List Byte) (s : State) : (s.accept lat buf).cfg = s.cfg := rfl
@[simp] theorem State.accept_lstate (lat : Latches) (buf : List Byte) (s : State) :
    (s.accept lat buf).lstate = s.lstate := rfl
@[simp] theorem State.accept_session (lat : Latches) (buf : List Byte) (s : State) :
    (s.accept lat buf).session = s.session := rfl
@[simp] theorem State.accept_cs (lat : Latches) (buf : List Byte) (s : State) : (s.accept lat buf).cs = s.cs := rfl
@[simp] theorem State.accept_dc (lat : Latches) (buf : List Byte) (s : State) : (s.accept lat buf).dc = s.dc := rfl
@[simp] theorem State.accept_rst (lat : Latches) (buf : List Byte) (s : State) : (s.accept lat buf).rst = s.rst := rfl
@[simp] theorem State.accept_status (lat : Latches) (buf : List Byte) (s : State) :
    (s.accept lat buf).status = s.status := rfl
@[simp] theorem State.accept_busy (lat : Latches) (buf : List Byte) (s : State) :
    (s.accept lat buf).busy = true := rfl
@[simp] theorem State.accept_upc (lat : Latches) (buf : List Byte) (s : State) : (s.accept lat buf).upc = 0 := rfl
@[simp] theorem State.accept_lat (lat : Latches) (buf : List Byte) (s : State) : (s.accept lat buf).lat = lat := rfl
@[simp] theorem State.accept_argBuf (lat : Latches) (buf : List Byte) (s : State) :
    (s.accept lat buf).argBuf = buf := rfl
@[simp] theorem State.accept_rowBuf (lat : Latches) (buf : List Byte) (s : State) :
    (s.accept lat buf).rowBuf = s.rowBuf := rfl
@[simp] theorem State.accept_trace (lat : Latches) (buf : List Byte) (s : State) :
    (s.accept lat buf).trace = s.trace := rfl
@[simp] theorem State.accept_responses (lat : Latches) (buf : List Byte) (s : State) :
    (s.accept lat buf).responses = s.responses := rfl
@[simp] theorem State.accept_inputs (lat : Latches) (buf : List Byte) (s : State) :
    (s.accept lat buf).inputs = s.inputs := rfl
@[simp] theorem State.accept_txScript (lat : Latches) (buf : List Byte) (s : State) :
    (s.accept lat buf).txScript = s.txScript := rfl
@[simp] theorem State.accept_busScript (lat : Latches) (buf : List Byte) (s : State) :
    (s.accept lat buf).busScript = s.busScript := rfl
@[simp] theorem State.accept_freeCount (lat : Latches) (buf : List Byte) (s : State) :
    (s.accept lat buf).freeCount = s.freeCount := rfl
@[simp] theorem State.accept_ctl (lat : Latches) (buf : List Byte) (s : State) : (s.accept lat buf).ctl = s.ctl := rfl

/-! ### `State.answer` -/

@[simp] theorem State.answer_cfg (st : Status) (s : State) : (s.answer st).cfg = s.cfg := rfl
@[simp] theorem State.answer_lstate (st : Status) (s : State) : (s.answer st).lstate = s.lstate := rfl
@[simp] theorem State.answer_session (st : Status) (s : State) : (s.answer st).session = s.session := rfl
@[simp] theorem State.answer_cs (st : Status) (s : State) : (s.answer st).cs = s.cs := rfl
@[simp] theorem State.answer_dc (st : Status) (s : State) : (s.answer st).dc = s.dc := rfl
@[simp] theorem State.answer_rst (st : Status) (s : State) : (s.answer st).rst = s.rst := rfl
@[simp] theorem State.answer_status (st : Status) (s : State) : (s.answer st).status = st := rfl
@[simp] theorem State.answer_busy (st : Status) (s : State) : (s.answer st).busy = false := rfl
@[simp] theorem State.answer_upc (st : Status) (s : State) : (s.answer st).upc = s.upc := rfl
@[simp] theorem State.answer_lat (st : Status) (s : State) : (s.answer st).lat = s.lat := rfl
@[simp] theorem State.answer_argBuf (st : Status) (s : State) : (s.answer st).argBuf = s.argBuf := rfl
@[simp] theorem State.answer_rowBuf (st : Status) (s : State) : (s.answer st).rowBuf = s.rowBuf := rfl
@[simp] theorem State.answer_trace (st : Status) (s : State) : (s.answer st).trace = s.trace := rfl
@[simp] theorem State.answer_responses (st : Status) (s : State) :
    (s.answer st).responses = s.responses ++ [st.byte] := rfl
@[simp] theorem State.answer_inputs (st : Status) (s : State) : (s.answer st).inputs = s.inputs := rfl
@[simp] theorem State.answer_txScript (st : Status) (s : State) : (s.answer st).txScript = s.txScript := rfl
@[simp] theorem State.answer_busScript (st : Status) (s : State) : (s.answer st).busScript = s.busScript := rfl
@[simp] theorem State.answer_freeCount (st : Status) (s : State) : (s.answer st).freeCount = s.freeCount := rfl
@[simp] theorem State.answer_ctl (st : Status) (s : State) : (s.answer st).ctl = s.ctl := rfl

/-! ### `State.forgetTransients` -/

@[simp] theorem State.forgetTransients_cfg (s : State) : (s.forgetTransients).cfg = s.cfg := rfl
@[simp] theorem State.forgetTransients_lstate (s : State) : (s.forgetTransients).lstate = s.lstate := rfl
@[simp] theorem State.forgetTransients_session (s : State) : (s.forgetTransients).session = s.session := rfl
@[simp] theorem State.forgetTransients_cs (s : State) : (s.forgetTransients).cs = s.cs := rfl
@[simp] theorem State.forgetTransients_dc (s : State) : (s.forgetTransients).dc = s.dc := rfl
@[simp] theorem State.forgetTransients_rst (s : State) : (s.forgetTransients).rst = s.rst := rfl
@[simp] theorem State.forgetTransients_status (s : State) : (s.forgetTransients).status = s.status := rfl
@[simp] theorem State.forgetTransients_busy (s : State) : (s.forgetTransients).busy = s.busy := rfl
@[simp] theorem State.forgetTransients_upc (s : State) :
    (s.forgetTransients).upc = Config.freeNat s.freeCount 0 := rfl
@[simp] theorem State.forgetTransients_lat (s : State) :
    (s.forgetTransients).lat = Latches.unspecified s.freeCount := rfl
@[simp] theorem State.forgetTransients_argBuf (s : State) :
    (s.forgetTransients).argBuf = Config.freeBytes s.freeCount 0 := rfl
@[simp] theorem State.forgetTransients_rowBuf (s : State) :
    (s.forgetTransients).rowBuf = Config.freeBytes s.freeCount 1 := rfl
@[simp] theorem State.forgetTransients_trace (s : State) : (s.forgetTransients).trace = s.trace := rfl
@[simp] theorem State.forgetTransients_responses (s : State) : (s.forgetTransients).responses = s.responses := rfl
@[simp] theorem State.forgetTransients_inputs (s : State) : (s.forgetTransients).inputs = s.inputs := rfl
@[simp] theorem State.forgetTransients_txScript (s : State) : (s.forgetTransients).txScript = s.txScript := rfl
@[simp] theorem State.forgetTransients_busScript (s : State) : (s.forgetTransients).busScript = s.busScript := rfl
@[simp] theorem State.forgetTransients_freeCount (s : State) : (s.forgetTransients).freeCount = s.freeCount + 1 := rfl
@[simp] theorem State.forgetTransients_ctl (s : State) : (s.forgetTransients).ctl = s.ctl := rfl

/-! ### `State.respond` -/

@[simp] theorem State.respond_cfg (st : Status) (s : State) : (s.respond st).cfg = s.cfg := rfl
@[simp] theorem State.respond_lstate (st : Status) (s : State) : (s.respond st).lstate = s.lstate := rfl
@[simp] theorem State.respond_session (st : Status) (s : State) : (s.respond st).session = s.session := rfl
@[simp] theorem State.respond_cs (st : Status) (s : State) : (s.respond st).cs = s.cs := rfl
@[simp] theorem State.respond_dc (st : Status) (s : State) : (s.respond st).dc = s.dc := rfl
@[simp] theorem State.respond_rst (st : Status) (s : State) : (s.respond st).rst = s.rst := rfl
@[simp] theorem State.respond_status (st : Status) (s : State) : (s.respond st).status = st := rfl
@[simp] theorem State.respond_busy (st : Status) (s : State) : (s.respond st).busy = false := rfl
@[simp] theorem State.respond_upc (st : Status) (s : State) : (s.respond st).upc = Config.freeNat s.freeCount 0 := rfl
@[simp] theorem State.respond_lat (st : Status) (s : State) :
    (s.respond st).lat = Latches.unspecified s.freeCount := rfl
@[simp] theorem State.respond_argBuf (st : Status) (s : State) :
    (s.respond st).argBuf = Config.freeBytes s.freeCount 0 := rfl
@[simp] theorem State.respond_rowBuf (st : Status) (s : State) :
    (s.respond st).rowBuf = Config.freeBytes s.freeCount 1 := rfl
@[simp] theorem State.respond_trace (st : Status) (s : State) : (s.respond st).trace = s.trace := rfl
@[simp] theorem State.respond_responses (st : Status) (s : State) :
    (s.respond st).responses = s.responses ++ [st.byte] := rfl
@[simp] theorem State.respond_inputs (st : Status) (s : State) : (s.respond st).inputs = s.inputs := rfl
@[simp] theorem State.respond_txScript (st : Status) (s : State) : (s.respond st).txScript = s.txScript := rfl
@[simp] theorem State.respond_busScript (st : Status) (s : State) : (s.respond st).busScript = s.busScript := rfl
@[simp] theorem State.respond_freeCount (st : Status) (s : State) : (s.respond st).freeCount = s.freeCount + 1 := rfl
@[simp] theorem State.respond_ctl (st : Status) (s : State) : (s.respond st).ctl = s.ctl := rfl

/-! ### `State.refuse` -/

@[simp] theorem State.refuse_cfg (s : State) : (s.refuse).cfg = s.cfg := rfl
@[simp] theorem State.refuse_lstate (s : State) : (s.refuse).lstate = s.lstate := rfl
@[simp] theorem State.refuse_session (s : State) : (s.refuse).session = s.session := rfl
@[simp] theorem State.refuse_cs (s : State) : (s.refuse).cs = s.cs := rfl
@[simp] theorem State.refuse_dc (s : State) : (s.refuse).dc = s.dc := rfl
@[simp] theorem State.refuse_rst (s : State) : (s.refuse).rst = s.rst := rfl
@[simp] theorem State.refuse_status (s : State) : (s.refuse).status = Status.preconditionViolation := rfl
@[simp] theorem State.refuse_busy (s : State) : (s.refuse).busy = false := rfl
@[simp] theorem State.refuse_upc (s : State) : (s.refuse).upc = s.upc := rfl
@[simp] theorem State.refuse_lat (s : State) : (s.refuse).lat = s.lat := rfl
@[simp] theorem State.refuse_argBuf (s : State) : (s.refuse).argBuf = s.argBuf := rfl
@[simp] theorem State.refuse_rowBuf (s : State) : (s.refuse).rowBuf = s.rowBuf := rfl
@[simp] theorem State.refuse_trace (s : State) : (s.refuse).trace = s.trace := rfl
@[simp] theorem State.refuse_responses (s : State) :
    (s.refuse).responses = s.responses ++ [Status.preconditionViolation.byte] := rfl
@[simp] theorem State.refuse_inputs (s : State) : (s.refuse).inputs = s.inputs := rfl
@[simp] theorem State.refuse_txScript (s : State) : (s.refuse).txScript = s.txScript := rfl
@[simp] theorem State.refuse_busScript (s : State) : (s.refuse).busScript = s.busScript := rfl
@[simp] theorem State.refuse_freeCount (s : State) : (s.refuse).freeCount = s.freeCount := rfl
@[simp] theorem State.refuse_ctl (s : State) : (s.refuse).ctl = s.ctl := rfl

/-! ### `State.advance` -/

@[simp] theorem State.advance_cfg (s : State) : (s.advance).cfg = s.cfg := rfl
@[simp] theorem State.advance_lstate (s : State) : (s.advance).lstate = s.lstate := rfl
@[simp] theorem State.advance_session (s : State) : (s.advance).session = s.session := rfl
@[simp] theorem State.advance_cs (s : State) : (s.advance).cs = s.cs := rfl
@[simp] theorem State.advance_dc (s : State) : (s.advance).dc = s.dc := rfl
@[simp] theorem State.advance_rst (s : State) : (s.advance).rst = s.rst := rfl
@[simp] theorem State.advance_status (s : State) : (s.advance).status = s.status := rfl
@[simp] theorem State.advance_busy (s : State) : (s.advance).busy = s.busy := rfl
@[simp] theorem State.advance_upc (s : State) : (s.advance).upc = s.upc + 1 := rfl
@[simp] theorem State.advance_lat (s : State) : (s.advance).lat = s.lat := rfl
@[simp] theorem State.advance_argBuf (s : State) : (s.advance).argBuf = s.argBuf := rfl
@[simp] theorem State.advance_rowBuf (s : State) : (s.advance).rowBuf = s.rowBuf := rfl
@[simp] theorem State.advance_trace (s : State) : (s.advance).trace = s.trace := rfl
@[simp] theorem State.advance_responses (s : State) : (s.advance).responses = s.responses := rfl
@[simp] theorem State.advance_inputs (s : State) : (s.advance).inputs = s.inputs := rfl
@[simp] theorem State.advance_txScript (s : State) : (s.advance).txScript = s.txScript := rfl
@[simp] theorem State.advance_busScript (s : State) : (s.advance).busScript = s.busScript := rfl
@[simp] theorem State.advance_freeCount (s : State) : (s.advance).freeCount = s.freeCount := rfl
@[simp] theorem State.advance_ctl (s : State) : (s.advance).ctl = s.ctl := rfl

/-! ### `State.delay` -/

@[simp] theorem State.delay_cfg (d : Delay) (s : State) : (s.delay d).cfg = s.cfg := rfl
@[simp] theorem State.delay_lstate (d : Delay) (s : State) : (s.delay d).lstate = s.lstate := rfl
@[simp] theorem State.delay_session (d : Delay) (s : State) : (s.delay d).session = s.session := rfl
@[simp] theorem State.delay_cs (d : Delay) (s : State) : (s.delay d).cs = s.cs := rfl
@[simp] theorem State.delay_dc (d : Delay) (s : State) : (s.delay d).dc = s.dc := rfl
@[simp] theorem State.delay_rst (d : Delay) (s : State) : (s.delay d).rst = s.rst := rfl
@[simp] theorem State.delay_status (d : Delay) (s : State) : (s.delay d).status = s.status := rfl
@[simp] theorem State.delay_busy (d : Delay) (s : State) : (s.delay d).busy = s.busy := rfl
@[simp] theorem State.delay_upc (d : Delay) (s : State) : (s.delay d).upc = s.upc := rfl
@[simp] theorem State.delay_lat (d : Delay) (s : State) : (s.delay d).lat = s.lat := rfl
@[simp] theorem State.delay_argBuf (d : Delay) (s : State) : (s.delay d).argBuf = s.argBuf := rfl
@[simp] theorem State.delay_rowBuf (d : Delay) (s : State) : (s.delay d).rowBuf = s.rowBuf := rfl
@[simp] theorem State.delay_trace (d : Delay) (s : State) : (s.delay d).trace = s.trace ++ [Event.delay d] := rfl
@[simp] theorem State.delay_responses (d : Delay) (s : State) : (s.delay d).responses = s.responses := rfl
@[simp] theorem State.delay_inputs (d : Delay) (s : State) : (s.delay d).inputs = s.inputs := rfl
@[simp] theorem State.delay_txScript (d : Delay) (s : State) : (s.delay d).txScript = s.txScript := rfl
@[simp] theorem State.delay_busScript (d : Delay) (s : State) : (s.delay d).busScript = s.busScript := rfl
@[simp] theorem State.delay_freeCount (d : Delay) (s : State) : (s.delay d).freeCount = s.freeCount := rfl
@[simp] theorem State.delay_ctl (d : Delay) (s : State) : (s.delay d).ctl = s.ctl := rfl

/-! ### `State.setLineReg` -/

@[simp] theorem State.setLineReg_cfg (p : Line) (r : LineReg) (s : State) :
    (s.setLineReg p r).cfg = s.cfg := by cases p <;> rfl
@[simp] theorem State.setLineReg_lstate (p : Line) (r : LineReg) (s : State) :
    (s.setLineReg p r).lstate = s.lstate := by cases p <;> rfl
@[simp] theorem State.setLineReg_session (p : Line) (r : LineReg) (s : State) :
    (s.setLineReg p r).session = s.session := by cases p <;> rfl
@[simp] theorem State.setLineReg_status (p : Line) (r : LineReg) (s : State) :
    (s.setLineReg p r).status = s.status := by cases p <;> rfl
@[simp] theorem State.setLineReg_busy (p : Line) (r : LineReg) (s : State) :
    (s.setLineReg p r).busy = s.busy := by cases p <;> rfl
@[simp] theorem State.setLineReg_upc (p : Line) (r : LineReg) (s : State) :
    (s.setLineReg p r).upc = s.upc := by cases p <;> rfl
@[simp] theorem State.setLineReg_lat (p : Line) (r : LineReg) (s : State) :
    (s.setLineReg p r).lat = s.lat := by cases p <;> rfl
@[simp] theorem State.setLineReg_argBuf (p : Line) (r : LineReg) (s : State) :
    (s.setLineReg p r).argBuf = s.argBuf := by cases p <;> rfl
@[simp] theorem State.setLineReg_rowBuf (p : Line) (r : LineReg) (s : State) :
    (s.setLineReg p r).rowBuf = s.rowBuf := by cases p <;> rfl
@[simp] theorem State.setLineReg_trace (p : Line) (r : LineReg) (s : State) :
    (s.setLineReg p r).trace = s.trace := by cases p <;> rfl
@[simp] theorem State.setLineReg_responses (p : Line) (r : LineReg) (s : State) :
    (s.setLineReg p r).responses = s.responses := by cases p <;> rfl
@[simp] theorem State.setLineReg_inputs (p : Line) (r : LineReg) (s : State) :
    (s.setLineReg p r).inputs = s.inputs := by cases p <;> rfl
@[simp] theorem State.setLineReg_txScript (p : Line) (r : LineReg) (s : State) :
    (s.setLineReg p r).txScript = s.txScript := by cases p <;> rfl
@[simp] theorem State.setLineReg_busScript (p : Line) (r : LineReg) (s : State) :
    (s.setLineReg p r).busScript = s.busScript := by cases p <;> rfl
@[simp] theorem State.setLineReg_freeCount (p : Line) (r : LineReg) (s : State) :
    (s.setLineReg p r).freeCount = s.freeCount := by cases p <;> rfl
@[simp] theorem State.setLineReg_ctl (p : Line) (r : LineReg) (s : State) :
    (s.setLineReg p r).ctl = s.ctl := by cases p <;> rfl

/-! ### `State.mode` -/

@[simp] theorem State.mode_cfg (p : Line) (s : State) : (s.mode p).cfg = s.cfg := by cases p <;> rfl
@[simp] theorem State.mode_lstate (p : Line) (s : State) : (s.mode p).lstate = s.lstate := by cases p <;> rfl
@[simp] theorem State.mode_session (p : Line) (s : State) : (s.mode p).session = s.session := by cases p <;> rfl
@[simp] theorem State.mode_status (p : Line) (s : State) : (s.mode p).status = s.status := by cases p <;> rfl
@[simp] theorem State.mode_busy (p : Line) (s : State) : (s.mode p).busy = s.busy := by cases p <;> rfl
@[simp] theorem State.mode_upc (p : Line) (s : State) : (s.mode p).upc = s.upc := by cases p <;> rfl
@[simp] theorem State.mode_lat (p : Line) (s : State) : (s.mode p).lat = s.lat := by cases p <;> rfl
@[simp] theorem State.mode_argBuf (p : Line) (s : State) : (s.mode p).argBuf = s.argBuf := by cases p <;> rfl
@[simp] theorem State.mode_rowBuf (p : Line) (s : State) : (s.mode p).rowBuf = s.rowBuf := by cases p <;> rfl
@[simp] theorem State.mode_responses (p : Line) (s : State) : (s.mode p).responses = s.responses := by cases p <;> rfl
@[simp] theorem State.mode_inputs (p : Line) (s : State) : (s.mode p).inputs = s.inputs := by cases p <;> rfl
@[simp] theorem State.mode_txScript (p : Line) (s : State) : (s.mode p).txScript = s.txScript := by cases p <;> rfl
@[simp] theorem State.mode_busScript (p : Line) (s : State) : (s.mode p).busScript = s.busScript := by cases p <;> rfl
@[simp] theorem State.mode_freeCount (p : Line) (s : State) : (s.mode p).freeCount = s.freeCount := by cases p <;> rfl
@[simp] theorem State.mode_ctl (p : Line) (s : State) : (s.mode p).ctl = s.ctl := by cases p <;> rfl
@[simp] theorem State.mode_trace (p : Line) (s : State) :
    (s.mode p).trace = s.trace ++ [Event.mode p] := by cases p <;> rfl

/-! ### `State.controllerSees` -/

@[simp] theorem State.controllerSees_cfg (p : Line) (v : Level) (s : State) :
    (s.controllerSees p v).cfg = s.cfg := by cases p <;> cases v <;> rfl
@[simp] theorem State.controllerSees_lstate (p : Line) (v : Level) (s : State) :
    (s.controllerSees p v).lstate = s.lstate := by cases p <;> cases v <;> rfl
@[simp] theorem State.controllerSees_session (p : Line) (v : Level) (s : State) :
    (s.controllerSees p v).session = s.session := by cases p <;> cases v <;> rfl
@[simp] theorem State.controllerSees_cs (p : Line) (v : Level) (s : State) :
    (s.controllerSees p v).cs = s.cs := by cases p <;> cases v <;> rfl
@[simp] theorem State.controllerSees_dc (p : Line) (v : Level) (s : State) :
    (s.controllerSees p v).dc = s.dc := by cases p <;> cases v <;> rfl
@[simp] theorem State.controllerSees_rst (p : Line) (v : Level) (s : State) :
    (s.controllerSees p v).rst = s.rst := by cases p <;> cases v <;> rfl
@[simp] theorem State.controllerSees_status (p : Line) (v : Level) (s : State) :
    (s.controllerSees p v).status = s.status := by cases p <;> cases v <;> rfl
@[simp] theorem State.controllerSees_busy (p : Line) (v : Level) (s : State) :
    (s.controllerSees p v).busy = s.busy := by cases p <;> cases v <;> rfl
@[simp] theorem State.controllerSees_upc (p : Line) (v : Level) (s : State) :
    (s.controllerSees p v).upc = s.upc := by cases p <;> cases v <;> rfl
@[simp] theorem State.controllerSees_lat (p : Line) (v : Level) (s : State) :
    (s.controllerSees p v).lat = s.lat := by cases p <;> cases v <;> rfl
@[simp] theorem State.controllerSees_argBuf (p : Line) (v : Level) (s : State) :
    (s.controllerSees p v).argBuf = s.argBuf := by cases p <;> cases v <;> rfl
@[simp] theorem State.controllerSees_rowBuf (p : Line) (v : Level) (s : State) :
    (s.controllerSees p v).rowBuf = s.rowBuf := by cases p <;> cases v <;> rfl
@[simp] theorem State.controllerSees_trace (p : Line) (v : Level) (s : State) :
    (s.controllerSees p v).trace = s.trace := by cases p <;> cases v <;> rfl
@[simp] theorem State.controllerSees_responses (p : Line) (v : Level) (s : State) :
    (s.controllerSees p v).responses = s.responses := by cases p <;> cases v <;> rfl
@[simp] theorem State.controllerSees_inputs (p : Line) (v : Level) (s : State) :
    (s.controllerSees p v).inputs = s.inputs := by cases p <;> cases v <;> rfl
@[simp] theorem State.controllerSees_txScript (p : Line) (v : Level) (s : State) :
    (s.controllerSees p v).txScript = s.txScript := by cases p <;> cases v <;> rfl
@[simp] theorem State.controllerSees_busScript (p : Line) (v : Level) (s : State) :
    (s.controllerSees p v).busScript = s.busScript := by cases p <;> cases v <;> rfl

/-! ### `State.line` -/

@[simp] theorem State.line_cfg (p : Line) (v : Level) (s : State) :
    (s.line p v).cfg = s.cfg := by cases p <;> cases v <;> rfl
@[simp] theorem State.line_lstate (p : Line) (v : Level) (s : State) :
    (s.line p v).lstate = s.lstate := by cases p <;> cases v <;> rfl
@[simp] theorem State.line_session (p : Line) (v : Level) (s : State) :
    (s.line p v).session = s.session := by cases p <;> cases v <;> rfl
@[simp] theorem State.line_status (p : Line) (v : Level) (s : State) :
    (s.line p v).status = s.status := by cases p <;> cases v <;> rfl
@[simp] theorem State.line_busy (p : Line) (v : Level) (s : State) :
    (s.line p v).busy = s.busy := by cases p <;> cases v <;> rfl
@[simp] theorem State.line_upc (p : Line) (v : Level) (s : State) :
    (s.line p v).upc = s.upc := by cases p <;> cases v <;> rfl
@[simp] theorem State.line_lat (p : Line) (v : Level) (s : State) :
    (s.line p v).lat = s.lat := by cases p <;> cases v <;> rfl
@[simp] theorem State.line_argBuf (p : Line) (v : Level) (s : State) :
    (s.line p v).argBuf = s.argBuf := by cases p <;> cases v <;> rfl
@[simp] theorem State.line_rowBuf (p : Line) (v : Level) (s : State) :
    (s.line p v).rowBuf = s.rowBuf := by cases p <;> cases v <;> rfl
@[simp] theorem State.line_responses (p : Line) (v : Level) (s : State) :
    (s.line p v).responses = s.responses := by cases p <;> cases v <;> rfl
@[simp] theorem State.line_inputs (p : Line) (v : Level) (s : State) :
    (s.line p v).inputs = s.inputs := by cases p <;> cases v <;> rfl
@[simp] theorem State.line_txScript (p : Line) (v : Level) (s : State) :
    (s.line p v).txScript = s.txScript := by cases p <;> cases v <;> rfl
@[simp] theorem State.line_busScript (p : Line) (v : Level) (s : State) :
    (s.line p v).busScript = s.busScript := by cases p <;> cases v <;> rfl
@[simp] theorem State.line_trace (p : Line) (v : Level) (s : State) :
    (s.line p v).trace = s.trace ++ [Event.line p v] := by
  cases p <;> cases v <;> rfl

/-! ### `State.ownReset` -/

@[simp] theorem State.ownReset_cfg (s : State) : (s.ownReset).cfg = s.cfg := rfl
@[simp] theorem State.ownReset_lstate (s : State) : (s.ownReset).lstate = LState.uninitialized := rfl
@[simp] theorem State.ownReset_session (s : State) : (s.ownReset).session = Session.closed := rfl
@[simp] theorem State.ownReset_cs (s : State) : (s.ownReset).cs = LineReg.reset := rfl
@[simp] theorem State.ownReset_dc (s : State) : (s.ownReset).dc = LineReg.reset := rfl
@[simp] theorem State.ownReset_rst (s : State) : (s.ownReset).rst = LineReg.reset := rfl
@[simp] theorem State.ownReset_status (s : State) : (s.ownReset).status = Status.ok := rfl
@[simp] theorem State.ownReset_busy (s : State) : (s.ownReset).busy = false := rfl
@[simp] theorem State.ownReset_upc (s : State) : (s.ownReset).upc = 0 := rfl
@[simp] theorem State.ownReset_lat (s : State) : (s.ownReset).lat = Latches.reset := rfl
@[simp] theorem State.ownReset_argBuf (s : State) : (s.ownReset).argBuf = [] := rfl
@[simp] theorem State.ownReset_rowBuf (s : State) : (s.ownReset).rowBuf = [] := rfl
@[simp] theorem State.ownReset_trace (s : State) : (s.ownReset).trace = [] := rfl
@[simp] theorem State.ownReset_responses (s : State) : (s.ownReset).responses = [] := rfl
@[simp] theorem State.ownReset_inputs (s : State) : (s.ownReset).inputs = s.inputs := rfl
@[simp] theorem State.ownReset_txScript (s : State) : (s.ownReset).txScript = s.txScript := rfl
@[simp] theorem State.ownReset_busScript (s : State) : (s.ownReset).busScript = s.busScript := rfl
@[simp] theorem State.ownReset_freeCount (s : State) : (s.ownReset).freeCount = s.freeCount + 1 := rfl
@[simp] theorem State.ownReset_ctl (s : State) : (s.ownReset).ctl = Controller.unknown s.freeCount := rfl

/-! ### The line registers after `mode` and `line` -/

@[simp] theorem State.mode_cs_cs (s : State) : (s.mode .cs).cs = ⟨s.cs.level, true, s.cs.written⟩ := rfl
@[simp] theorem State.line_cs_cs (v : Level) (s : State) :
    (s.line .cs v).cs = ⟨v, s.cs.oe, true⟩ := by cases v <;> rfl
@[simp] theorem State.mode_cs_dc (s : State) : (s.mode .cs).dc = s.dc := rfl
@[simp] theorem State.line_cs_dc (v : Level) (s : State) : (s.line .cs v).dc = s.dc := by cases v <;> rfl
@[simp] theorem State.mode_cs_rst (s : State) : (s.mode .cs).rst = s.rst := rfl
@[simp] theorem State.line_cs_rst (v : Level) (s : State) : (s.line .cs v).rst = s.rst := by cases v <;> rfl
@[simp] theorem State.mode_dc_cs (s : State) : (s.mode .dc).cs = s.cs := rfl
@[simp] theorem State.line_dc_cs (v : Level) (s : State) : (s.line .dc v).cs = s.cs := by cases v <;> rfl
@[simp] theorem State.mode_dc_dc (s : State) : (s.mode .dc).dc = ⟨s.dc.level, true, s.dc.written⟩ := rfl
@[simp] theorem State.line_dc_dc (v : Level) (s : State) :
    (s.line .dc v).dc = ⟨v, s.dc.oe, true⟩ := by cases v <;> rfl
@[simp] theorem State.mode_dc_rst (s : State) : (s.mode .dc).rst = s.rst := rfl
@[simp] theorem State.line_dc_rst (v : Level) (s : State) : (s.line .dc v).rst = s.rst := by cases v <;> rfl
@[simp] theorem State.mode_rst_cs (s : State) : (s.mode .rst).cs = s.cs := rfl
@[simp] theorem State.line_rst_cs (v : Level) (s : State) : (s.line .rst v).cs = s.cs := by cases v <;> rfl
@[simp] theorem State.mode_rst_dc (s : State) : (s.mode .rst).dc = s.dc := rfl
@[simp] theorem State.line_rst_dc (v : Level) (s : State) : (s.line .rst v).dc = s.dc := by cases v <;> rfl
@[simp] theorem State.mode_rst_rst (s : State) : (s.mode .rst).rst = ⟨s.rst.level, true, s.rst.written⟩ := rfl
@[simp] theorem State.line_rst_rst (v : Level) (s : State) :
    (s.line .rst v).rst = ⟨v, s.rst.oe, true⟩ := by cases v <;> rfl

/-! ### The controller and the counter after `line` -/

@[simp] theorem State.line_cs_low_ctl (s : State) : (s.line .cs false).ctl = s.ctl := rfl
@[simp] theorem State.line_cs_high_ctl (s : State) : (s.line .cs true).ctl = s.ctl.deselect := rfl
@[simp] theorem State.line_dc_ctl (v : Level) (s : State) : (s.line .dc v).ctl = s.ctl := by cases v <;> rfl
@[simp] theorem State.line_rst_high_ctl (s : State) : (s.line .rst true).ctl = s.ctl := rfl
@[simp] theorem State.line_rst_low_ctl (s : State) : (s.line .rst false).ctl = Controller.pulsed s.freeCount := rfl
@[simp] theorem State.line_cs_freeCount (v : Level) (s : State) : (s.line .cs v).freeCount = s.freeCount := by
  cases v <;> rfl
@[simp] theorem State.line_dc_freeCount (v : Level) (s : State) : (s.line .dc v).freeCount = s.freeCount := by
  cases v <;> rfl
@[simp] theorem State.line_rst_high_freeCount (s : State) : (s.line .rst true).freeCount = s.freeCount := rfl
@[simp] theorem State.line_rst_low_freeCount (s : State) : (s.line .rst false).freeCount = s.freeCount + 1 := rfl

end Sys2Proof.Machine
end

