-- ==== Sys2Proof/Laws/Micro.lean ====
section
/-! SUPPORT. What one step of a micro-program can do, said once (`Micro.perform`), and how a list of them composes
(`runSeq`). Later proofs cite these and do not unfold the micro-operations. -/

namespace Sys2Proof.Machine

/-! ### Register writes -/

theorem State.view_write (w : RegWrite) (s : State) : (s.write w).view = s.view.afterWrite w := by
  cases w <;> rfl

theorem State.view_writeAll (ws : List RegWrite) (s : State) :
    (s.writeAll ws).view = ws.foldl View.afterWrite s.view := by
  induction ws generalizing s with
  | nil => rfl
  | cons w ws ih => simpa [State.writeAll, State.view_write] using ih (s.write w)

/-- What register writes leave alone. -/
structure KeptByWrites (s t : State) : Prop where
  cfg : t.cfg = s.cfg
  busy : t.busy = s.busy
  upc : t.upc = s.upc
  lat : t.lat = s.lat
  argBuf : t.argBuf = s.argBuf
  status : t.status = s.status
  trace : t.trace = s.trace
  responses : t.responses = s.responses
  inputs : t.inputs = s.inputs
  txScript : t.txScript = s.txScript
  busScript : t.busScript = s.busScript
  freeCount : t.freeCount = s.freeCount
  ctl : t.ctl = s.ctl
  cs : t.cs = s.cs
  dc : t.dc = s.dc
  rst : t.rst = s.rst

theorem State.writeAll_kept (ws : List RegWrite) (s : State) : KeptByWrites s (s.writeAll ws) := by
  induction ws generalizing s with
  | nil => constructor <;> rfl
  | cons w ws ih =>
    have h := ih (s.write w)
    cases w <;> exact ⟨h.1, h.2, h.3, h.4, h.5, h.6, h.7, h.8, h.9, h.10, h.11, h.12, h.13, h.14, h.15, h.16⟩

@[simp] theorem State.writeAll_nil (s : State) : s.writeAll [] = s := rfl

@[simp] theorem State.writeAll_cons (w : RegWrite) (ws : List RegWrite) (s : State) :
    s.writeAll (w :: ws) = (s.write w).writeAll ws := rfl

/-! ### The transport's replies -/

/-- Drawing a reply moves a script or the counter on, and nothing else. -/
theorem State.nextTx_spec (s : State) :
    ∃ sc n, s.nextTx.2 = { s with txScript := sc, freeCount := n } ∧
      (∀ r, r ∈ sc → r ∈ s.txScript) ∧ (s.nextTx.1 = .pending → .pending ∈ s.txScript) := by
  unfold State.nextTx
  split
  · rename_i r rest h
    refine ⟨rest, s.freeCount, rfl, fun x hx => ?_, fun hp => ?_⟩
    · simp [h, hx]
    · simp_all
  · rename_i h
    exact ⟨[], s.freeCount + 1, by simp [h], by simp, by simp⟩

theorem State.nextBus_spec (s : State) :
    ∃ sc n, s.nextBus.2 = { s with busScript := sc, freeCount := n } ∧
      (∀ r, r ∈ sc → r ∈ s.busScript) ∧ (s.nextBus.1 = .pending → .pending ∈ s.busScript) := by
  unfold State.nextBus
  split
  · rename_i r rest h
    refine ⟨rest, s.freeCount, rfl, fun x hx => ?_, fun hp => ?_⟩
    · simp [h, hx]
    · simp_all
  · rename_i h
    exact ⟨[], s.freeCount + 1, by simp [h], by simp, by simp⟩

@[simp] theorem State.nextTx_cons (s : State) (r : TxReply) (rest : List TxReply) (h : s.txScript = r :: rest) :
    s.nextTx = (r, { s with txScript := rest }) := by
  simp [State.nextTx, h]

@[simp] theorem State.nextBus_cons (s : State) (r : BusReply) (rest : List BusReply) (h : s.busScript = r :: rest) :
    s.nextBus = (r, { s with busScript := rest }) := by
  simp [State.nextBus, h]

/-! ### One micro-operation -/

/-- The event a micro-operation appends, given the transport's answer. -/
def MicroOp.makes (s : State) : MicroOp → Event → Prop
  | .mode p, e => e = .mode p
  | .line p v, e => e = .line p v
  | .tx src tmo, e => ∃ a, e = .tx (src.read s) tmo a
  | .delay d, e => e = .delay d
  | .busSetup, e => ∃ a, e = .setup a
  | .busClose, e => ∃ a, e = .close a

/-- What a micro-operation leaves alone, whether it completes or raises, and the one event it appends. -/
structure Ran (op : MicroOp) (s t : State) : Prop where
  cfg : t.cfg = s.cfg
  lstate : t.lstate = s.lstate
  session : t.session = s.session
  status : t.status = s.status
  busy : t.busy = s.busy
  upc : t.upc = s.upc
  lat : t.lat = s.lat
  argBuf : t.argBuf = s.argBuf
  rowBuf : t.rowBuf = s.rowBuf
  responses : t.responses = s.responses
  inputs : t.inputs = s.inputs
  trace : ∃ e, op.makes s e ∧ t.trace = s.trace ++ [e]
  view : t.view = s.view.afterOp op
  txScript : ∀ r, r ∈ t.txScript → r ∈ s.txScript
  busScript : ∀ r, r ∈ t.busScript → r ∈ s.busScript

/-- A micro-operation the transport keeps waiting changes nothing but what the transport still has to say. -/
structure Waits (s t : State) : Prop where
  same : ∃ tx bus n, t = { s with txScript := tx, busScript := bus, freeCount := n }
  late : TxReply.pending ∈ s.txScript ∨ BusReply.pending ∈ s.busScript
  txScript : ∀ r, r ∈ t.txScript → r ∈ s.txScript
  busScript : ∀ r, r ∈ t.busScript → r ∈ s.busScript

/-- The micro-operations that can raise `TransportError`. -/
def MicroOp.canRaise : MicroOp → Bool
  | .mode _ => false
  | .line _ _ => false
  | .tx _ _ => true
  | .delay _ => false
  | .busSetup => true
  | .busClose => true

/-- Everything one micro-operation can do. -/
theorem MicroOp.run_cases (op : MicroOp) (s : State) :
    (∃ t, op.run s = .completed t ∧ Ran op s t) ∨
    (∃ t, op.run s = .raised t ∧ Ran op s t ∧ op.canRaise = true) ∨
    (∃ t, op.run s = .blocked t ∧ Waits s t) := by
  cases op with
  | mode p =>
    refine .inl ⟨_, rfl, ?_⟩
    cases p <;> constructor <;> first | rfl | exact ⟨_, rfl, rfl⟩ | exact fun _ h => h
  | line p v =>
    refine .inl ⟨_, rfl, ?_⟩
    cases p <;> cases v <;> constructor <;> first | rfl | exact ⟨_, rfl, rfl⟩ | exact fun _ h => h
  | delay d =>
    refine .inl ⟨_, rfl, ?_⟩
    constructor <;> first | rfl | exact ⟨_, rfl, rfl⟩ | exact fun _ h => h
  | tx src tmo =>
    obtain ⟨sc, n, h2, hs, hp⟩ := s.nextTx_spec
    simp only [MicroOp.run, State.tx]
    rcases hr : s.nextTx with ⟨r, t⟩
    rw [hr] at h2 hp
    simp only at h2 hp
    subst h2
    cases r with
    | pending =>
      refine .inr (.inr ⟨_, rfl, ⟨⟨sc, s.busScript, n, rfl⟩, .inl (hp rfl), hs, fun _ h => h⟩⟩)
    | answer a =>
      by_cases ha : a = .ok (src.read s).length
      · refine .inl ⟨_, if_pos ha, ?_⟩
        constructor <;> first | rfl | exact ⟨_, ⟨_, rfl⟩, rfl⟩ | exact fun _ h => h | exact hs
      · refine .inr (.inl ⟨_, if_neg ha, ?_, rfl⟩)
        constructor <;> first | rfl | exact ⟨_, ⟨_, rfl⟩, rfl⟩ | exact fun _ h => h | exact hs
  | busSetup =>
    obtain ⟨sc, n, h2, hs, hp⟩ := s.nextBus_spec
    simp only [MicroOp.run, State.busSetup]
    rcases hr : s.nextBus with ⟨r, t⟩
    rw [hr] at h2 hp
    simp only at h2 hp
    subst h2
    cases r with
    | pending =>
      refine .inr (.inr ⟨_, rfl, ⟨⟨s.txScript, sc, n, rfl⟩, .inr (hp rfl), fun _ h => h, hs⟩⟩)
    | answer a =>
      cases a with
      | ok =>
        refine .inl ⟨_, rfl, ?_⟩
        constructor <;> first | rfl | exact ⟨_, ⟨_, rfl⟩, rfl⟩ | exact fun _ h => h | exact hs
      | err =>
        refine .inr (.inl ⟨_, rfl, ?_, rfl⟩)
        constructor <;> first | rfl | exact ⟨_, ⟨_, rfl⟩, rfl⟩ | exact fun _ h => h | exact hs
  | busClose =>
    obtain ⟨sc, n, h2, hs, hp⟩ := s.nextBus_spec
    simp only [MicroOp.run, State.busClose]
    rcases hr : s.nextBus with ⟨r, t⟩
    rw [hr] at h2 hp
    simp only at h2 hp
    subst h2
    cases r with
    | pending =>
      refine .inr (.inr ⟨_, rfl, ⟨⟨s.txScript, sc, n, rfl⟩, .inr (hp rfl), fun _ h => h, hs⟩⟩)
    | answer a =>
      cases a with
      | ok =>
        refine .inl ⟨_, rfl, ?_⟩
        constructor <;> first | rfl | exact ⟨_, ⟨_, rfl⟩, rfl⟩ | exact fun _ h => h | exact hs
      | err =>
        refine .inr (.inl ⟨_, rfl, ?_, rfl⟩)
        constructor <;> first | rfl | exact ⟨_, ⟨_, rfl⟩, rfl⟩ | exact fun _ h => h | exact hs

/-! ### One step -/

/-- What a completed step does. -/
structure Stepped (m : Micro) (s t : State) : Prop where
  cfg : t.cfg = s.cfg
  status : t.status = s.status
  busy : t.busy = s.busy
  upc : t.upc = s.upc + 1
  lat : t.lat = s.lat
  argBuf : t.argBuf = s.argBuf
  responses : t.responses = s.responses
  inputs : t.inputs = s.inputs
  trace : ∃ e, m.op.makes s e ∧ t.trace = s.trace ++ [e]
  view : t.view = s.view.after m
  txScript : ∀ r, r ∈ t.txScript → r ∈ s.txScript
  busScript : ∀ r, r ∈ t.busScript → r ∈ s.busScript

/-- Everything one step of the framer can do. -/
theorem Micro.perform_cases (m : Micro) (s : State) :
    (∃ t, m.perform s = .running t ∧ Stepped m s t) ∨
    (∃ t, m.perform s = .ended (m.onError t) ∧ Ran m.op s t ∧ m.op.canRaise = true) ∨
    (∃ t, m.perform s = .blocked t ∧ Waits s t) := by
  rcases m.op.run_cases s with ⟨t, h, r⟩ | ⟨t, h, r, c⟩ | ⟨t, h, w⟩
  · refine .inl ⟨(t.writeAll m.writes).advance, by simp [Micro.perform, h], ?_⟩
    have k := t.writeAll_kept m.writes
    exact
      { cfg := k.cfg.trans r.cfg
        status := k.status.trans r.status
        busy := k.busy.trans r.busy
        upc := by simp [k.upc, r.upc]
        lat := k.lat.trans r.lat
        argBuf := k.argBuf.trans r.argBuf
        responses := k.responses.trans r.responses
        inputs := k.inputs.trans r.inputs
        trace := by simpa [k.trace] using r.trace
        view := by
          have : ((t.writeAll m.writes).advance).view = (t.writeAll m.writes).view := rfl
          rw [this, State.view_writeAll, r.view]
          rfl
        txScript := fun x hx => r.txScript x (by simpa [k.txScript] using hx)
        busScript := fun x hx => r.busScript x (by simpa [k.busScript] using hx) }
  · exact .inr (.inl ⟨t, by simp [Micro.perform, h], r, c⟩)
  · exact .inr (.inr ⟨t, by simp [Micro.perform, h], w⟩)

/-! ### Lists of steps -/

@[simp] theorem runSeq_nil (s : State) : runSeq [] s = .running s := rfl

/-- Carry on with the next list if the first one is through. -/
def Progress.andThen (p : Progress) (f : State → Progress) : Progress :=
  match p with
  | .running t => f t
  | .ended t => .ended t
  | .blocked t => .blocked t

theorem runSeq_cons (m : Micro) (ms : List Micro) (s : State) :
    runSeq (m :: ms) s = (m.perform s).andThen (runSeq ms) := by
  rw [runSeq]
  cases m.perform s <;> rfl

theorem runSeq_append (xs ys : List Micro) (s : State) :
    runSeq (xs ++ ys) s = (runSeq xs s).andThen (runSeq ys) := by
  induction xs generalizing s with
  | nil => rfl
  | cons m ms ih =>
    simp only [List.cons_append, runSeq_cons]
    cases m.perform s <;> simp [Progress.andThen, ih]

/-- The induction over a micro-program, packaged: `P` holds of what is still to be run and the state, `Q` of the state the
request is left in, answered or waiting. -/
theorem runMicros_induct {P : List Micro → State → Prop} {Q : State → Prop}
    (running : ∀ m ms s t, P (m :: ms) s → m.perform s = .running t → P ms t)
    (ended : ∀ m ms s t, P (m :: ms) s → m.perform s = .ended t → Q t)
    (blocked : ∀ m ms s t, P (m :: ms) s → m.perform s = .blocked t → Q t)
    (done : ∀ s, P [] s → Q (s.respond .ok)) (ms : List Micro) (s : State) (h : P ms s) : Q (runMicros ms s) := by
  induction ms generalizing s with
  | nil => exact done s h
  | cons m ms ih =>
    rw [runMicros, runSeq_cons]
    cases hp : m.perform s with
    | running t => exact ih t (running m ms s t h hp)
    | ended t => exact ended m ms s t h hp
    | blocked t => exact blocked m ms s t h hp

/-- The last step of a list carries the write placed after the list. -/
theorem thenWrite_append_singleton (w : RegWrite) (ms : List Micro) (m : Micro) :
    thenWrite w (ms ++ [m]) = ms ++ [⟨m.op, m.writes ++ [w]⟩] := by
  induction ms with
  | nil => rfl
  | cons a as ih =>
    cases as with
    | nil => rfl
    | cons b bs => simpa [thenWrite] using ih

theorem thenWrite_append (w : RegWrite) (xs ys : List Micro) (h : ys ≠ []) :
    thenWrite w (xs ++ ys) = xs ++ thenWrite w ys := by
  obtain ⟨zs, m, rfl⟩ : ∃ zs m, ys = zs ++ [m] := ⟨_, _, (List.dropLast_append_getLast h).symm⟩
  rw [← List.append_assoc, thenWrite_append_singleton, thenWrite_append_singleton, List.append_assoc]

theorem thenWrite_length (w : RegWrite) (ms : List Micro) : (thenWrite w ms).length = ms.length := by
  induction ms with
  | nil => rfl
  | cons a as ih =>
    cases as with
    | nil => rfl
    | cons b bs => exact congrArg (· + 1) ih

end Sys2Proof.Machine
end

