-- ==== Sys2Proof/Laws/Runs.lean ====
section
/-! SUPPORT. Whole micro-programs: what a list of steps does when the transport lets every call succeed, and when one
transfer fails. Events and transfer lengths are computed from the list and the view alone. -/

namespace Sys2Proof.Machine

/-- The event of a micro-operation whose call succeeds. -/
def View.okEvent (v : View) : MicroOp → Event
  | .mode p => .mode p
  | .line p l => .line p l
  | .tx src tmo => txOk tmo (v.source src)
  | .delay d => .delay d
  | .busSetup => .setup .ok
  | .busClose => .close .ok

/-- The events of a list of steps that all succeed. -/
def okEvents : List Micro → View → List Event
  | [], _ => []
  | m :: ms, v => v.okEvent m.op :: okEvents ms (v.after m)

/-- The lengths of the transfers of one step. -/
def View.opLengths (v : View) : MicroOp → List Nat
  | .tx src _ => [(v.source src).length]
  | .mode _ => []
  | .line _ _ => []
  | .delay _ => []
  | .busSetup => []
  | .busClose => []

/-- The lengths of the transfers of a list of steps, in order. -/
def txLengths : List Micro → View → List Nat
  | [], _ => []
  | m :: ms, v => v.opLengths m.op ++ txLengths ms (v.after m)

/-- How many replies of the bus script a micro-operation takes. -/
def MicroOp.busCalls : MicroOp → Nat
  | .busSetup => 1
  | .busClose => 1
  | .mode _ => 0
  | .line _ _ => 0
  | .tx _ _ => 0
  | .delay _ => 0

/-- How many replies of the bus script a list of steps takes. -/
def busCalls (ms : List Micro) : Nat := (ms.map fun m => m.op.busCalls).sum

/-- The view after a list of steps. -/
def View.afterAll (ms : List Micro) (v : View) : View := ms.foldl View.after v

@[simp] theorem okReplies_nil : okReplies [] = [] := rfl
@[simp] theorem okReplies_cons (n : Nat) (ns : List Nat) : okReplies (n :: ns) = .answer (.ok n) :: okReplies ns := rfl
theorem okReplies_append (xs ys : List Nat) : okReplies (xs ++ ys) = okReplies xs ++ okReplies ys := by
  simp [okReplies]

theorem okEvents_append (xs ys : List Micro) (v : View) :
    okEvents (xs ++ ys) v = okEvents xs v ++ okEvents ys (v.afterAll xs) := by
  induction xs generalizing v with
  | nil => rfl
  | cons m ms ih => simp [okEvents, ih, View.afterAll]

theorem txLengths_append (xs ys : List Micro) (v : View) :
    txLengths (xs ++ ys) v = txLengths xs v ++ txLengths ys (v.afterAll xs) := by
  induction xs generalizing v with
  | nil => rfl
  | cons m ms ih => simp [txLengths, ih, View.afterAll]

theorem View.afterAll_append (xs ys : List Micro) (v : View) :
    v.afterAll (xs ++ ys) = (v.afterAll xs).afterAll ys := by
  simp [View.afterAll]

theorem busCalls_append (xs ys : List Micro) : busCalls (xs ++ ys) = busCalls xs + busCalls ys := by
  simp [busCalls]

@[simp] theorem TxSource.read_view (s : State) (src : TxSource) : s.view.source src = src.read s := by
  cases src <;> rfl

/-- What a run leaves alone besides the view, the trace and the scripts. -/
structure KeptByRun (s t : State) : Prop where
  cfg : t.cfg = s.cfg
  status : t.status = s.status
  busy : t.busy = s.busy
  lat : t.lat = s.lat
  argBuf : t.argBuf = s.argBuf
  responses : t.responses = s.responses
  inputs : t.inputs = s.inputs

theorem KeptByRun.refl (s : State) : KeptByRun s s := ⟨rfl, rfl, rfl, rfl, rfl, rfl, rfl⟩

theorem KeptByRun.trans {s t u : State} (h : KeptByRun s t) (k : KeptByRun t u) : KeptByRun s u :=
  ⟨k.1.trans h.1, k.2.trans h.2, k.3.trans h.3, k.4.trans h.4, k.5.trans h.5, k.6.trans h.6, k.7.trans h.7⟩

theorem Stepped.kept {m : Micro} {s t : State} (h : Stepped m s t) : KeptByRun s t :=
  ⟨h.cfg, h.status, h.busy, h.lat, h.argBuf, h.responses, h.inputs⟩

theorem Ran.kept {op : MicroOp} {s t : State} (h : Ran op s t) : KeptByRun s t :=
  ⟨h.cfg, h.status, h.busy, h.lat, h.argBuf, h.responses, h.inputs⟩

/-- One step whose call succeeds. -/
theorem Micro.perform_ok (m : Micro) (s : State) (rest : List TxReply) (busRest : List BusReply)
    (ht : s.txScript = okReplies (s.view.opLengths m.op) ++ rest)
    (hb : s.busScript = List.replicate m.op.busCalls (.answer .ok) ++ busRest) :
    ∃ t, m.perform s = .running t ∧ t.trace = s.trace ++ [s.view.okEvent m.op] ∧
      t.view = s.view.after m ∧ t.txScript = rest ∧ t.busScript = busRest ∧ KeptByRun s t := by
  have key : ∃ t, m.op.run s = .completed t ∧ t.trace = s.trace ++ [s.view.okEvent m.op] ∧
      t.txScript = rest ∧ t.busScript = busRest := by
    cases hop : m.op with
    | mode p => exact ⟨_, rfl, by simp [View.okEvent], by simpa [hop, View.opLengths] using ht,
        by simpa [hop, MicroOp.busCalls] using hb⟩
    | line p v => exact ⟨_, rfl, by simp [View.okEvent], by simpa [hop, View.opLengths] using ht,
        by simpa [hop, MicroOp.busCalls] using hb⟩
    | delay d => exact ⟨_, rfl, by simp [View.okEvent], by simpa [hop, View.opLengths] using ht,
        by simpa [hop, MicroOp.busCalls] using hb⟩
    | tx src tmo =>
      have h1 : s.txScript = .answer (.ok (src.read s).length) :: rest := by
        simpa [hop, View.opLengths] using ht
      have hb' : s.busScript = busRest := by simpa [hop, MicroOp.busCalls] using hb
      refine ⟨(({ s with txScript := rest }).deliver (src.read s)).emit (.tx (src.read s) tmo (.ok (src.read s).length)),
        ?_, ?_, rfl, hb'⟩
      · simp [MicroOp.run, State.tx, State.nextTx_cons s _ _ h1]
      · simp [View.okEvent, txOk]
    | busSetup =>
      have h1 : s.busScript = .answer .ok :: busRest := by simpa [hop, MicroOp.busCalls] using hb
      have ht' : s.txScript = rest := by simpa [hop, View.opLengths] using ht
      exact ⟨({ s with busScript := busRest }).emit (.setup .ok),
        by simp [MicroOp.run, State.busSetup, State.nextBus_cons s _ _ h1], by simp [View.okEvent], ht', rfl⟩
    | busClose =>
      have h1 : s.busScript = .answer .ok :: busRest := by simpa [hop, MicroOp.busCalls] using hb
      have ht' : s.txScript = rest := by simpa [hop, View.opLengths] using ht
      exact ⟨({ s with busScript := busRest }).emit (.close .ok),
        by simp [MicroOp.run, State.busClose, State.nextBus_cons s _ _ h1], by simp [View.okEvent], ht', rfl⟩
  obtain ⟨t, hr, h1, h2, h3⟩ := key
  have hp : m.perform s = .running (t.writeAll m.writes).advance := by simp [Micro.perform, hr]
  have k := t.writeAll_kept m.writes
  rcases m.perform_cases s with ⟨u, hu, st⟩ | ⟨u, hu, _⟩ | ⟨u, hu, _⟩
  · rw [hp] at hu
    cases hu
    exact ⟨_, hp, by simp [k.trace, h1], st.view, by simp [k.txScript, h2], by simp [k.busScript, h3], st.kept⟩
  · simp [hp] at hu
  · simp [hp] at hu

/-- A list of steps whose calls all succeed. -/
theorem runSeq_ok (ms : List Micro) (s : State) (rest : List TxReply) (busRest : List BusReply)
    (ht : s.txScript = okReplies (txLengths ms s.view) ++ rest)
    (hb : s.busScript = List.replicate (busCalls ms) (.answer .ok) ++ busRest) :
    ∃ t, runSeq ms s = .running t ∧ t.trace = s.trace ++ okEvents ms s.view ∧
      t.view = s.view.afterAll ms ∧ t.txScript = rest ∧ t.busScript = busRest ∧ KeptByRun s t := by
  induction ms generalizing s with
  | nil => exact ⟨s, rfl, by simp [okEvents], rfl, by simpa [txLengths] using ht, by simpa [busCalls] using hb, .refl s⟩
  | cons m ms ih =>
    obtain ⟨u, hu, h1, h2, h3, h4, h5⟩ := m.perform_ok s (okReplies (txLengths ms (s.view.after m)) ++ rest)
      (List.replicate (busCalls ms) (.answer .ok) ++ busRest)
      (by rw [ht, txLengths, okReplies_append, List.append_assoc])
      (by rw [hb, ← List.append_assoc, ← List.replicate_add]; simp [busCalls])
    obtain ⟨t, ht1, ht2, ht3, ht4, ht5, ht6⟩ := ih u (by rw [h3, h2]) h4
    refine ⟨t, by rw [runSeq_cons, hu]; exact ht1, ?_, ?_, ht4, ht5, h5.trans ht6⟩
    · rw [ht2, h1, h2]; simp [okEvents]
    · rw [ht3, h2]; rfl

/-- One transfer whose call fails: the abort path, after the event. -/
theorem Micro.perform_fail (m : Micro) (src : TxSource) (tmo : Timeout) (hop : m.op = .tx src tmo) (s : State)
    (a : TxAnswer) (rest : List TxReply) (ha : a ≠ .ok (src.read s).length) (ht : s.txScript = .answer a :: rest) :
    ∃ u, m.perform s = .ended u.abort ∧ u.trace = s.trace ++ [.tx (src.read s) tmo a] ∧ u.view = s.view ∧
      u.txScript = rest ∧ u.busScript = s.busScript ∧ KeptByRun s u := by
  refine ⟨({ s with txScript := rest }.deliverPrefix (src.read s)).emit (.tx (src.read s) tmo a), ?_, rfl, rfl, rfl,
    rfl, ⟨rfl, rfl, rfl, rfl, rfl, rfl, rfl⟩⟩
  simp [Micro.perform, hop, MicroOp.run, State.tx, State.nextTx_cons s _ _ ht, ha, Micro.onError]

/-- The view at transfer number `k` of a list of steps. -/
def viewAtTransfer : Nat → List Micro → View → View
  | _, [], v => v
  | k, ⟨.tx src tmo, ws⟩ :: ms, v =>
    match k with
    | 0 => v
    | j + 1 => viewAtTransfer j ms (v.after ⟨.tx src tmo, ws⟩)
  | k, ⟨.mode p, ws⟩ :: ms, v => viewAtTransfer k ms (v.after ⟨.mode p, ws⟩)
  | k, ⟨.line p l, ws⟩ :: ms, v => viewAtTransfer k ms (v.after ⟨.line p l, ws⟩)
  | k, ⟨.delay d, ws⟩ :: ms, v => viewAtTransfer k ms (v.after ⟨.delay d, ws⟩)
  | k, ⟨.busSetup, ws⟩ :: ms, v => viewAtTransfer k ms (v.after ⟨.busSetup, ws⟩)
  | k, ⟨.busClose, ws⟩ :: ms, v => viewAtTransfer k ms (v.after ⟨.busClose, ws⟩)

/-- A list of steps with no bus call in which transfer number `k` is the first that fails. -/
theorem runSeq_fail (ms : List Micro) (s : State) (k n : Nat) (a : TxAnswer) (rest : List TxReply)
    (busRest : List BusReply) (hk : (txLengths ms s.view)[k]? = some n) (ha : a ≠ .ok n)
    (ht : s.txScript = okReplies ((txLengths ms s.view).take k) ++ .answer a :: rest)
    (hb : s.busScript = busRest)
    (hlast : ∀ m ∈ ms, m.op.busCalls = 0) :
    ∃ u, runSeq ms s = .ended u.abort ∧ u.trace = s.trace ++ cutAtTransfer k a (okEvents ms s.view) ∧
      u.view = viewAtTransfer k ms s.view ∧ u.txScript = rest ∧ u.busScript = busRest ∧ KeptByRun s u := by
  induction ms generalizing s k with
  | nil => simp [txLengths] at hk
  | cons m ms ih =>
    have hb0 : m.op.busCalls = 0 := hlast m (by simp)
    have hbs : s.busScript = busRest := hb
    have go : ∀ j, (txLengths ms (s.view.after m))[j]? = some n →
        s.txScript = okReplies (s.view.opLengths m.op) ++
          (okReplies ((txLengths ms (s.view.after m)).take j) ++ .answer a :: rest) →
        ∃ u, runSeq (m :: ms) s = .ended u.abort ∧
          u.trace = s.trace ++ (s.view.okEvent m.op :: cutAtTransfer j a (okEvents ms (s.view.after m))) ∧
          u.view = viewAtTransfer j ms (s.view.after m) ∧ u.txScript = rest ∧ u.busScript = busRest ∧
          KeptByRun s u := by
      intro j hj htj
      obtain ⟨t, hp, h1, h2, h3, h4, h5⟩ := m.perform_ok s _ s.busScript htj (by simp [hb0])
      obtain ⟨u, hu1, hu2, hu3, hu4, hu5, hu6⟩ := ih t j (by rw [h2]; exact hj) (by rw [h3, h2]) (by rw [h4, hbs])
        (fun x hx => hlast x (by simp [hx]))
      exact ⟨u, by rw [runSeq_cons, hp]; exact hu1, by rw [hu2, h1, h2]; simp, by rw [hu3, h2], hu4, hu5, h5.trans hu6⟩
    obtain ⟨op, ws⟩ := m
    cases op with
    | tx src tmo =>
      cases k with
      | zero =>
        have hn : n = (src.read s).length := by simpa [txLengths, View.opLengths] using hk.symm
        obtain ⟨u, hu1, hu2, hu3, hu4, hu5, hu6⟩ := Micro.perform_fail ⟨.tx src tmo, ws⟩ src tmo rfl s a rest
          (by rw [← hn]; exact ha) (by simpa using ht)
        refine ⟨u, by rw [runSeq_cons, hu1]; rfl, ?_, hu3, hu4, by rw [hu5, hbs], hu6⟩
        rw [hu2]; simp [okEvents, View.okEvent, txOk, cutAtTransfer]
      | succ j =>
        have h := go j (by simpa [txLengths, View.opLengths] using hk)
          (by simpa [txLengths, View.opLengths] using ht)
        simpa [okEvents, View.okEvent, txOk, cutAtTransfer, viewAtTransfer] using h
    | mode p =>
      have h := go k (by simpa [txLengths, View.opLengths] using hk) (by simpa [txLengths, View.opLengths] using ht)
      cases k <;> simpa [okEvents, View.okEvent, cutAtTransfer, viewAtTransfer] using h
    | line p l =>
      have h := go k (by simpa [txLengths, View.opLengths] using hk) (by simpa [txLengths, View.opLengths] using ht)
      cases k <;> simpa [okEvents, View.okEvent, cutAtTransfer, viewAtTransfer] using h
    | delay d =>
      have h := go k (by simpa [txLengths, View.opLengths] using hk) (by simpa [txLengths, View.opLengths] using ht)
      cases k <;> simpa [okEvents, View.okEvent, cutAtTransfer, viewAtTransfer] using h
    | busSetup => simp [MicroOp.busCalls] at hb0
    | busClose => simp [MicroOp.busCalls] at hb0

/-! ### The events and lengths of the framing procedures -/

/-- A whole micro-program whose calls all succeed. -/
theorem runMicros_ok (ms : List Micro) (s : State) (rest : List TxReply) (busRest : List BusReply)
    (ht : s.txScript = okReplies (txLengths ms s.view) ++ rest)
    (hb : s.busScript = List.replicate (busCalls ms) (.answer .ok) ++ busRest) :
    ∃ t, runMicros ms s = t.respond .ok ∧ t.trace = s.trace ++ okEvents ms s.view ∧
      t.view = s.view.afterAll ms ∧ t.txScript = rest ∧ t.busScript = busRest ∧ KeptByRun s t := by
  obtain ⟨t, h, k⟩ := runSeq_ok ms s rest busRest ht hb
  exact ⟨t, by simp [runMicros, h, Progress.finish], k⟩

/-- The bytes of a frame's argument part. -/
def frameBytes (v : View) : Option TxSource → List Byte
  | none => []
  | some src => v.source src

theorem frame_busCalls (cmd : Byte) (args : Option TxSource) : busCalls (frame cmd args) = 0 := by
  cases args <;> rfl

theorem okEvents_frame (cmd : Byte) (args : Option TxSource) (v : View) (h : args = none ∨ frameBytes v args ≠ []) :
    okEvents (frame cmd args) v = commandFrame cmd (frameBytes v args) := by
  cases args with
  | none => rfl
  | some src =>
    have h : v.source src ≠ [] := by simpa [frameBytes] using h
    cases src <;> simp [commandFrame, frameBytes, h] <;> rfl

theorem txLengths_frame (cmd : Byte) (args : Option TxSource) (v : View) (h : args = none ∨ frameBytes v args ≠ []) :
    txLengths (frame cmd args) v = frameLengths (frameBytes v args) := by
  cases args with
  | none => rfl
  | some src =>
    have h : v.source src ≠ [] := by simpa [frameBytes] using h
    cases src <;> simp [frameLengths, frameBytes, h] <;> rfl

theorem View.afterAll_frame (cmd : Byte) (args : Option TxSource) (v : View) :
    v.afterAll (frame cmd args) = { v with
      cs := { v.cs with level := true, written := true }
      dc := { v.dc with level := args.isSome, written := true } } := by
  cases args <;> rfl

theorem openingOpcode_eq (c : Config) (dir : Dir) : openingOpcode c dir = openingByte c dir := by
  cases dir <;> rfl

theorem okEvents_window (c : Config) (x1 y1 x2 y2 : Word16) (dir : Dir) (v : View) :
    okEvents (window c x1 y1 x2 y2 dir) v = windowFrame c x1 y1 x2 y2 dir := by
  cases dir <;> rfl

theorem txLengths_window (c : Config) (x1 y1 x2 y2 : Word16) (dir : Dir) (v : View) :
    txLengths (window c x1 y1 x2 y2 dir) v = windowLengths := rfl

theorem View.afterAll_window (c : Config) (x1 y1 x2 y2 : Word16) (dir : Dir) (v : View) :
    v.afterAll (window c x1 y1 x2 y2 dir) = { v with
      session := Session.ofDir dir
      cs := { v.cs with level := false, written := true }
      dc := { v.dc with level := true, written := true } } := rfl

theorem length_rep (k : Nat) (bs : List Byte) : (rep k bs).length = k * bs.length := by
  simp [rep]

@[simp] theorem length_rowBytes (x1 x2 color : Word16) : (rowBytes x1 x2 color).length = 2 * span x1 x2 := by
  simp [rowBytes, length_rep, be16, Nat.mul_comm]

/-- The rows of a fill, whatever the list's length. -/
theorem okEvents_rows (n : Nat) (v : View) :
    okEvents (List.replicate n (plain (.tx .rowBuf .row))) v = List.replicate n (txOk .row v.rowBuf) := by
  induction n with
  | zero => rfl
  | succ n ih => rw [List.replicate_succ, List.replicate_succ, okEvents, ← ih]; rfl

theorem txLengths_rows (n : Nat) (v : View) :
    txLengths (List.replicate n (plain (.tx .rowBuf .row))) v = List.replicate n v.rowBuf.length := by
  induction n with
  | zero => rfl
  | succ n ih => rw [List.replicate_succ, List.replicate_succ, txLengths, ← ih]; rfl

theorem View.afterAll_rows (n : Nat) (v : View) : v.afterAll (List.replicate n (plain (.tx .rowBuf .row))) = v := by
  induction n with
  | zero => rfl
  | succ n ih => exact ih

theorem okEvents_fillProgram (c : Config) (lat : Latches) (v : View) :
    okEvents (fillProgram c lat) v = fillEvents c lat.x1 lat.y1 lat.x2 lat.y2 lat.color := by
  rw [fillProgram, List.append_assoc, okEvents_append, okEvents_append, okEvents_rows, View.afterAll_rows]
  simp only [fillEvents, List.append_assoc]
  rfl

theorem txLengths_fillProgram (c : Config) (lat : Latches) (v : View) :
    txLengths (fillProgram c lat) v = fillLengths lat.x1 lat.y1 lat.x2 lat.y2 := by
  rw [fillProgram, List.append_assoc, txLengths_append, txLengths_append, txLengths_rows, View.afterAll_rows]
  have : ((v.afterAll (thenWrite (.rowBuf (rowBytes lat.x1 lat.x2 lat.color))
      (window c lat.x1 lat.y1 lat.x2 lat.y2 .write))).rowBuf).length = 2 * span lat.x1 lat.x2 :=
    length_rowBytes _ _ _
  rw [this]
  simp only [fillLengths, span]
  exact congrArg _ (List.append_nil _)

theorem View.afterAll_fillProgram (c : Config) (lat : Latches) (v : View) :
    v.afterAll (fillProgram c lat) = { v with
      session := .closed
      cs := { v.cs with level := true, written := true }
      dc := { v.dc with level := true, written := true }
      rowBuf := rowBytes lat.x1 lat.x2 lat.color } := by
  rw [fillProgram, List.append_assoc, View.afterAll_append, View.afterAll_append, View.afterAll_rows]
  rfl

theorem busCalls_fillProgram (c : Config) (lat : Latches) : busCalls (fillProgram c lat) = 0 := by
  have : ∀ n, busCalls (List.replicate n (plain (.tx .rowBuf .row))) = 0 := by
    intro n; simp [busCalls, plain, MicroOp.busCalls]
  rw [fillProgram, busCalls_append, busCalls_append, this]
  rfl

/-! ### A register write placed after a list -/

theorem okEvents_thenWrite (w : RegWrite) (ms : List Micro) (v : View) :
    okEvents (thenWrite w ms) v = okEvents ms v := by
  rcases List.eq_nil_or_concat' ms with rfl | ⟨zs, m, rfl⟩
  · rfl
  · simp only [thenWrite_append_singleton, okEvents_append, okEvents]

theorem txLengths_thenWrite (w : RegWrite) (ms : List Micro) (v : View) :
    txLengths (thenWrite w ms) v = txLengths ms v := by
  rcases List.eq_nil_or_concat' ms with rfl | ⟨zs, m, rfl⟩
  · rfl
  · simp only [thenWrite_append_singleton, txLengths_append, txLengths]

theorem busCalls_thenWrite (w : RegWrite) (ms : List Micro) : busCalls (thenWrite w ms) = busCalls ms := by
  rcases List.eq_nil_or_concat' ms with rfl | ⟨zs, m, rfl⟩
  · rfl
  · simp [thenWrite_append_singleton, busCalls]

theorem View.afterAll_thenWrite (w : RegWrite) (ms : List Micro) (v : View) (h : ms ≠ []) :
    v.afterAll (thenWrite w ms) = (v.afterAll ms).afterWrite w := by
  obtain ⟨zs, m, rfl⟩ : ∃ zs m, ms = zs ++ [m] := ⟨_, _, (List.dropLast_append_getLast h).symm⟩
  simp [thenWrite_append_singleton, View.afterAll, View.after, List.foldl_append]

/-! ### Step (d) of INITIALIZE -/

theorem entryFrame_spec (e : InitEntry) (v : View) :
    okEvents (entryFrame e) v = commandFrame e.opc e.args ∧ txLengths (entryFrame e) v = frameLengths e.args ∧
      busCalls (entryFrame e) = 0 ∧
      v.afterAll (entryFrame e) = { v with
        cs := { v.cs with level := true, written := true }
        dc := { v.dc with level := decide (e.args ≠ []), written := true } } := by
  by_cases h : e.args = []
  · simp only [entryFrame, h]
    exact ⟨rfl, rfl, rfl, rfl⟩
  · simp only [entryFrame, if_neg h]
    refine ⟨okEvents_frame _ _ _ (.inr h), txLengths_frame _ _ _ (.inr h), rfl, ?_⟩
    rw [View.afterAll_frame]
    simp [h]

theorem okEvents_table (table : List InitEntry) (v : View) :
    okEvents (table.flatMap entryFrame) v = tableEvents table ∧
      txLengths (table.flatMap entryFrame) v = tableLengths table ∧ busCalls (table.flatMap entryFrame) = 0 := by
  induction table generalizing v with
  | nil => exact ⟨rfl, rfl, rfl⟩
  | cons e es ih =>
    obtain ⟨h1, h2, h3, -⟩ := entryFrame_spec e v
    simp only [List.flatMap_cons, okEvents_append, txLengths_append, busCalls_append, tableEvents, tableLengths]
    obtain ⟨i1, i2, i3⟩ := ih (v.afterAll (entryFrame e))
    exact ⟨by rw [h1, i1]; rfl, by rw [h2, i2]; rfl, by rw [h3, i3]⟩

/-- Step (d) writes `CS` and `DC` only. -/
theorem View.afterAll_table (table : List InitEntry) (v : View) (h : v.cs.level = true ∧ v.cs.written = true)
    (hd : v.dc.written = true) :
    ∃ l, v.afterAll (table.flatMap entryFrame) = { v with dc := { v.dc with level := l } } := by
  induction table generalizing v with
  | nil => exact ⟨v.dc.level, rfl⟩
  | cons e es ih =>
    simp only [List.flatMap_cons, View.afterAll_append, (entryFrame_spec e v).2.2.2]
    obtain ⟨l, hl⟩ := ih { v with
        cs := { v.cs with level := true, written := true }
        dc := { v.dc with level := decide (e.args ≠ []), written := true } } ⟨rfl, rfl⟩ rfl
    refine ⟨l, hl.trans ?_⟩
    obtain ⟨ls, se, ⟨c1, c2, c3⟩, ⟨d1, d2, d3⟩, r, ab, rb⟩ := v
    simp only at h hd
    simp [h, hd]

/-- The whole of INITIALIZE: its events, its transfers, its one bus call, and the registers it ends with. -/
theorem initialiseProgram_spec (c : Config) (v : View) :
    okEvents (initialiseProgram c) v = bringupEvents c ∧
      txLengths (initialiseProgram c) v = tableLengths c.initTable ++ [1, 1] ∧
      busCalls (initialiseProgram c) = 1 ∧
      v.afterAll (initialiseProgram c) = { v with
        lstate := .active
        cs := ⟨true, true, true⟩
        dc := ⟨false, true, true⟩
        rst := ⟨true, true, true⟩ } := by
  have tab := okEvents_table c.initTable
  have hne : thenWrite (.lstate .resetSettled) bringupReset ++ c.initTable.flatMap entryFrame ≠ [] := by
    simp [bringupReset, thenWrite]
  refine ⟨?_, ?_, ?_, ?_⟩
  · simp only [initialiseProgram, okEvents_append, okEvents_thenWrite, bringupTable, (tab _).1, bringupEvents,
      bringupHead, bringupTail, List.append_assoc]
    rfl
  · simp only [initialiseProgram, txLengths_append, txLengths_thenWrite, bringupTable, (tab _).2.1, List.append_assoc]
    rfl
  · simp only [initialiseProgram, busCalls_append, busCalls_thenWrite, bringupTable, (tab v).2.2]
    rfl
  · simp only [initialiseProgram, View.afterAll_append, View.afterAll_thenWrite _ _ _ hne, bringupTable]
    obtain ⟨l, hl⟩ := View.afterAll_table c.initTable
      (((v.afterAll bringupLines).afterAll bringupBus).afterAll (thenWrite (.lstate .resetSettled) bringupReset))
      ⟨rfl, rfl⟩ rfl
    rw [hl]
    rfl

end Sys2Proof.Machine
end

