-- ==== Sys2Proof/Laws/Requests.lean ====
section
/-! SUPPORT. Each request behind its gate, said once: what it runs when it is admitted with legal operands, and that it
is refused otherwise. Later proofs cite these and do not unfold `exec`. -/

namespace Sys2Proof.Machine

/-- The refusal path, field by field. -/
theorem State.refuse_eq (s : State) : s.refuse = { s with
    status := .preconditionViolation, busy := false, responses := s.responses ++ [0x02] } := rfl

theorem State.gate_open (i : Instr) (s act : State) (ha : requestAdmitted i s = true)
    (ho : operandsLegal s.cfg i = true) : s.gate i act = act := by
  simp [State.gate, ha, ho]

theorem State.gate_shut (i : Instr) (s act : State) (h : requestAdmitted i s = false ∨ operandsLegal s.cfg i = false) :
    s.gate i act = s.refuse := by
  rcases h with h | h <;> simp [State.gate, h]

/-- A request that is not admitted, or whose operands are illegal, takes the refusal path. -/
theorem exec_refused (i : Instr) (s : State) (h : requestAdmitted i s = false ∨ operandsLegal s.cfg i = false) :
    exec i s = .next s.refuse := by
  cases i <;> exact congrArg _ (State.gate_shut _ s _ h)

theorem commandMode_iff (s : State) : s.commandMode = true ↔ s.lstate = .active ∧ s.session = .closed := by
  simp [State.commandMode]

theorem regionLegal_iff (c : Config) (x1 y1 x2 y2 : Word16) :
    regionLegal c x1 y1 x2 y2 = true ↔
      x1.toNat ≤ x2.toNat ∧ x2.toNat < c.width ∧ y1.toNat ≤ y2.toNat ∧ y2.toNat < c.height := by
  simp only [regionLegal, decide_eq_true_eq]
  omega

theorem exec_send (s : State) (cmd : Byte) (args : List Byte) (hl : s.lstate = .active) (hs : s.session = .closed)
    (hc : cmd ∈ s.cfg.cmdSet) :
    exec (.send cmd args) s =
      .next (runMicros (sendProgram (s.lat.ofSend cmd args)) (s.accept (s.lat.ofSend cmd args) args)) :=
  congrArg _ (State.gate_open (.send cmd args) s _ ((commandMode_iff s).2 ⟨hl, hs⟩)
    (by simpa [operandsLegal, commandKnown] using hc))

theorem exec_sendBare (s : State) (cmd : Byte) (hl : s.lstate = .active) (hs : s.session = .closed)
    (hc : cmd ∈ s.cfg.cmdSet) :
    exec (.sendBare cmd) s =
      .next (runMicros (sendBareProgram (s.lat.ofSendBare cmd)) (s.accept (s.lat.ofSendBare cmd) s.argBuf)) :=
  congrArg _ (State.gate_open (.sendBare cmd) s _ ((commandMode_iff s).2 ⟨hl, hs⟩)
    (by simpa [operandsLegal, commandKnown] using hc))

theorem exec_setWindow (s : State) (dir : Dir) (x1 y1 x2 y2 : Word16) (hl : s.lstate = .active)
    (hs : s.session = .closed)
    (h : x1.toNat ≤ x2.toNat ∧ x2.toNat < s.cfg.width ∧ y1.toNat ≤ y2.toNat ∧ y2.toNat < s.cfg.height) :
    exec (.setWindow dir x1 y1 x2 y2) s =
      .next (runMicros (setWindowProgram s.cfg (s.lat.ofSetWindow dir x1 y1 x2 y2))
        (s.accept (s.lat.ofSetWindow dir x1 y1 x2 y2) s.argBuf)) :=
  congrArg _ (State.gate_open (.setWindow dir x1 y1 x2 y2) s _ ((commandMode_iff s).2 ⟨hl, hs⟩)
    ((regionLegal_iff _ _ _ _ _).2 h))

theorem exec_stream (s : State) (data : List Byte) (hs : s.session = .openWrite) (hd : data ≠ []) :
    exec (.stream data) s = .next (runMicros streamProgram (s.accept (s.lat.ofStream data) data)) :=
  congrArg _ (State.gate_open _ s _ (by simp [requestAdmitted, hs])
    (by simpa [operandsLegal, dataPresent, Nat.one_le_iff_ne_zero] using hd))

theorem exec_endSession (s : State) (hs : s.session ≠ .closed) :
    exec .endSession s = .next (runMicros endSessionProgram (s.accept s.lat.ofEndSession s.argBuf)) :=
  congrArg _ (State.gate_open _ s _ (by simp [requestAdmitted, hs]) rfl)

theorem exec_fillRect (s : State) (x y w h color : Word16) (hl : s.lstate = .active) (hs : s.session = .closed) :
    exec (.fillRect x y w h color) s = .next (fillBody x y w h color s) :=
  congrArg _ (State.gate_open (.fillRect x y w h color) s _ ((commandMode_iff s).2 ⟨hl, hs⟩) rfl)

theorem exec_initialise (s : State) (hl : s.lstate = .uninitialized) :
    exec .initialise s = .next (runMicros (initialiseProgram s.cfg) (s.accept s.lat.ofInitialise s.argBuf)) :=
  congrArg _ (State.gate_open _ s _ (by simp [requestAdmitted, hl]) rfl)

theorem exec_cleanup (s : State) (hl : s.lstate ≠ .uninitialized) (hs : s.session = .closed) :
    exec .cleanup s = .next (runMicros cleanupProgram (s.accept s.lat.ofCleanup s.argBuf)) :=
  congrArg _ (State.gate_open _ s _ (by simp [requestAdmitted, hl, hs]) rfl)

/-! ### Acceptance -/

theorem State.accepted_none (s : State) (i : Instr)
    (h : requestAdmitted i s = false ∨ operandsLegal s.cfg i = false) : s.accepted i = none := by
  rcases h with h | h <;> simp [State.accepted, h]

/-- What acceptance does (R81, R82, R27): the latches and `ARGBUF` are loaded, `UPC` is 0, nothing else changes; the
latches determine the micro-program, and exec runs it. -/
theorem exec_accepted (s a : State) (i : Instr) (h : s.accepted i = some a) :
    ∃ lat buf ms, a = s.accept lat buf ∧ microProgram s.cfg lat = some ms ∧ exec i s = .next (runMicros ms a) := by
  unfold State.accepted at h
  split_ifs at h with hg
  have open' : ∀ act, s.gate i act = act := fun act => if_pos hg
  cases i with
  | initialise => cases h; exact ⟨_, _, _, rfl, rfl, congrArg _ (open' _)⟩
  | cleanup => cases h; exact ⟨_, _, _, rfl, rfl, congrArg _ (open' _)⟩
  | sendBare cmd => cases h; exact ⟨_, _, _, rfl, rfl, congrArg _ (open' _)⟩
  | send cmd args => cases h; exact ⟨_, _, _, rfl, rfl, congrArg _ (open' _)⟩
  | setWindow dir x1 y1 x2 y2 => cases h; exact ⟨_, _, _, rfl, rfl, congrArg _ (open' _)⟩
  | stream data => cases h; exact ⟨_, _, _, rfl, rfl, congrArg _ (open' _)⟩
  | endSession => cases h; exact ⟨_, _, _, rfl, rfl, congrArg _ (open' _)⟩
  | fillRect x y w h' color =>
    obtain ⟨⟨x2, y2⟩, hc, rfl⟩ := Option.map_eq_some_iff.1 h
    exact ⟨_, _, _, rfl, rfl, congrArg _ ((open' _).trans (by simp only [fillBody, hc]))⟩

/-- A request that runs no micro-operation: refused, or a FILL_RECT with nothing to draw. -/
theorem exec_not_accepted (s : State) (i : Instr) (h : s.accepted i = none) :
    exec i s = .next s.refuse ∨
      ∃ x y w h color, i = .fillRect x y w h color ∧ clip s.cfg x y w h = none ∧ exec i s = .next (s.answer .ok) := by
  by_cases hg : (requestAdmitted i s && operandsLegal s.cfg i) = true
  · cases i with
    | fillRect x y w h' color =>
      have hc : clip s.cfg x y w h' = none := by simpa [State.accepted, hg] using h
      exact .inr ⟨x, y, w, h', color, rfl, hc, congrArg _ ((if_pos hg).trans (by simp only [fillBody, hc]))⟩
    | initialise => simp [State.accepted, hg] at h
    | cleanup => simp [State.accepted, hg] at h
    | sendBare cmd => simp [State.accepted, hg] at h
    | send cmd args => simp [State.accepted, hg] at h
    | setWindow dir x1 y1 x2 y2 => simp [State.accepted, hg] at h
    | stream data => simp [State.accepted, hg] at h
    | endSession => simp [State.accepted, hg] at h
  · exact .inl (exec_refused i s (by cases h1 : requestAdmitted i s <;> simp_all))

/-! ### The clip of FILL_RECT -/

theorem clip_eq_some (c : Config) (x y w h x2 y2 : Word16) (hc : clipsTo c x y w h x2 y2) :
    clip c x y w h = some (x2, y2) := by
  obtain ⟨a, b, d, e, f, g⟩ := hc
  have hx2 := x2.isLt
  have hy2 := y2.isLt
  have e1 : clipBound c.width x w = x2.toNat := by unfold clipBound; omega
  have e2 : clipBound c.height y h = y2.toNat := by unfold clipBound; omega
  have k : ∀ v : Word16, BitVec.ofInt 16 (v.toNat : Int) = v := by intro v; simp
  unfold clip
  rw [if_neg (by omega), if_neg (by rw [e1, e2]; omega), e1, e2, k, k]

/-- A clip that is not empty is what the rules say, on every panel R6 allows. -/
theorem clip_eq_some_iff (c : Config) (hd : c.DimsOk) (x y w h x2 y2 : Word16) :
    clip c x y w h = some (x2, y2) ↔ clipsTo c x y w h x2 y2 := by
  refine ⟨fun hc => ?_, clip_eq_some c x y w h x2 y2⟩
  obtain ⟨d1, d2, d3, d4⟩ := hd
  have e1 : clipBound c.width x w = min ((c.width : Int) - 1) (x.toNat + w.toNat - 1) := rfl
  have e2 : clipBound c.height y h = min ((c.height : Int) - 1) (y.toNat + h.toNat - 1) := rfl
  unfold clip at hc
  split_ifs at hc with k1 k2
  simp only [Option.some.injEq, Prod.mk.injEq] at hc
  obtain ⟨rfl, rfl⟩ := hc
  have q : ∀ i : Int, 0 ≤ i → i < 65536 → ((BitVec.ofInt 16 i).toNat : Int) = i := by
    intro i h1 h2; simp [BitVec.toNat_ofInt]; omega
  have q1 := q (clipBound c.width x w) (by omega) (by omega)
  have q2 := q (clipBound c.height y h) (by omega) (by omega)
  unfold clipsTo
  omega

theorem clip_eq_none_iff (c : Config) (hd : c.DimsOk) (x y w h : Word16) :
    clip c x y w h = none ↔ c.width ≤ x.toNat ∨ c.height ≤ y.toNat ∨ w.toNat = 0 ∨ h.toNat = 0 := by
  obtain ⟨d1, d2, d3, d4⟩ := hd
  have e1 : clipBound c.width x w = min ((c.width : Int) - 1) (x.toNat + w.toNat - 1) := rfl
  have e2 : clipBound c.height y h = min ((c.height : Int) - 1) (y.toNat + h.toNat - 1) := rfl
  unfold clip
  split_ifs with k1 k2 <;> simp <;> omega

end Sys2Proof.Machine
end

