-- ==== Sys2Proof/Laws/Safe.lean ====
section
/-! SUPPORT. Safe runs: how `View.safeRun` composes, that the framing procedures are safe from a bus that is ready, and
that running a safe list of steps keeps the machine's invariant whatever the transport answers. -/

namespace Sys2Proof.Machine

/-! ### Frame memory keeps its canonical form -/

/-- A property of the frame memory holds however a micro-operation ends. -/
def OpResult.fbWf : OpResult → Prop
  | .completed t => t.ctl.fb.wf
  | .raised t => t.ctl.fb.wf
  | .blocked t => t.ctl.fb.wf

theorem MicroOp.run_wf (op : MicroOp) (s : State) (h : s.ctl.fb.wf) : (op.run s).fbWf := by
  cases op with
  | mode p => cases p <;> exact h
  | delay d => exact h
  | line p v => cases p <;> cases v <;> first | exact h | exact Controller.pulsed_wf _
  | tx src tmo =>
    obtain ⟨sc, n, h2, -, -⟩ := s.nextTx_spec
    simp only [MicroOp.run, State.tx]
    rcases hr : s.nextTx with ⟨r, u⟩
    rw [hr] at h2
    subst h2
    cases r with
    | pending => exact h
    | answer a =>
      dsimp only
      split_ifs <;> exact Controller.receive_wf _ _ _ _ _ h
  | busSetup =>
    obtain ⟨sc, n, h2, -, -⟩ := s.nextBus_spec
    simp only [MicroOp.run, State.busSetup]
    rcases hr : s.nextBus with ⟨r, u⟩
    rw [hr] at h2
    subst h2
    cases r with
    | pending => exact h
    | answer a => cases a <;> exact h
  | busClose =>
    obtain ⟨sc, n, h2, -, -⟩ := s.nextBus_spec
    simp only [MicroOp.run, State.busClose]
    rcases hr : s.nextBus with ⟨r, u⟩
    rw [hr] at h2
    subst h2
    cases r with
    | pending => exact h
    | answer a => cases a <;> exact h

theorem State.abort_wf (s : State) (h : s.ctl.fb.wf) : s.abort.ctl.fb.wf := by
  unfold State.abort
  dsimp only
  split_ifs <;> exact h

theorem Micro.onError_wf (m : Micro) (s : State) (h : s.ctl.fb.wf) : (m.onError s).ctl.fb.wf := by
  unfold Micro.onError
  cases m.op with
  | busClose => simpa [(s.writeAll_kept m.writes).ctl] using h
  | mode p => exact s.abort_wf h
  | line p v => exact s.abort_wf h
  | tx src tmo => exact s.abort_wf h
  | delay d => exact s.abort_wf h
  | busSetup => exact s.abort_wf h

/-- The state a step leaves, however it ends. -/
def Progress.state : Progress → State
  | .running t => t
  | .ended t => t
  | .blocked t => t

theorem Micro.perform_wf (m : Micro) (s : State) (h : s.ctl.fb.wf) : (m.perform s).state.ctl.fb.wf := by
  have hr := MicroOp.run_wf m.op s h
  unfold Micro.perform
  cases hx : m.op.run s with
  | completed t =>
    rw [hx] at hr
    simpa [Progress.state, OpResult.fbWf, (t.writeAll_kept m.writes).ctl] using hr
  | raised t =>
    rw [hx] at hr
    exact m.onError_wf t hr
  | blocked t =>
    rw [hx] at hr
    exact hr

/-! ### At rest -/

/-- Being at rest depends on the lifecycle, the session and the three lines only. -/
theorem View.atRest_congr {v w : View} (h1 : v.lstate = w.lstate) (h2 : v.session = w.session) (h3 : v.cs = w.cs)
    (h4 : v.dc = w.dc) (h5 : v.rst = w.rst) (h : v.atRest) : w.atRest := by
  unfold View.atRest View.linesDriven at *
  rw [← h1, ← h2, ← h3, ← h4, ← h5]
  exact h

/-- The bus is ready for a frame: everything driven, the controller out of reset, no session. -/
def View.ready (v : View) : Prop :=
  v.linesDriven ∧ v.rst.level = true ∧
    (v.lstate = .resetSettled ∨ v.lstate = .registersProgrammed ∨ v.lstate = .active) ∧ v.session = .closed

theorem View.ready_of_active (v : View) (h : v.atRest) (hl : v.lstate = .active) (hs : v.session = .closed) :
    v.ready := by
  have := h.2.2.1 (by simp [hl])
  exact ⟨this.1, this.2, .inr (.inr hl), hs⟩

theorem View.atRest_of_ready (v : View) (h : v.ready) (hc : v.cs.level = true) : v.atRest := by
  obtain ⟨⟨h1, h2, h3, h4, h5, h6⟩, h7, h8, h9⟩ := h
  have hb : v.lstate ≠ .busConfigured := by rcases h8 with h | h | h <;> simp [h]
  exact ⟨fun _ => by simp [hc, h9], fun h => absurd h9 h, fun _ => ⟨⟨h1, h2, h3, h4, h5, h6⟩, h7⟩, hb,
    fun _ => h4, fun _ => h5, fun _ => h6⟩

/-! ### Composition -/

/-- Every step of the list is safe when its turn comes; nothing is asked of the end. -/
def View.stepsSafe : List Micro → View → Prop
  | [], _ => True
  | m :: ms, v => v.safeStep m ∧ View.stepsSafe ms (v.after m)

theorem View.safeRun_append (xs ys : List Micro) (v : View) (hx : View.stepsSafe xs v)
    (hy : View.safeRun ys (v.afterAll xs)) : View.safeRun (xs ++ ys) v := by
  induction xs generalizing v with
  | nil => exact hy
  | cons a as ih => exact ⟨hx.1, ih _ hx.2 hy⟩

theorem View.stepsSafe_append (xs ys : List Micro) (v : View) (hx : View.stepsSafe xs v)
    (hy : View.stepsSafe ys (v.afterAll xs)) : View.stepsSafe (xs ++ ys) v := by
  induction xs generalizing v with
  | nil => exact hy
  | cons a as ih => exact ⟨hx.1, ih _ hx.2 hy⟩

/-- A register write placed after a list does not make it unsafe, as long as the list closes no bus. -/
theorem View.stepsSafe_thenWrite (w : RegWrite) (ms : List Micro) (v : View) (h : View.stepsSafe ms v)
    (hb : ∀ m ∈ ms, m.op ≠ .busClose) : View.stepsSafe (thenWrite w ms) v := by
  induction ms generalizing v with
  | nil => exact h
  | cons a as ih =>
    cases as with
    | nil =>
      refine ⟨?_, trivial⟩
      have h1 := h.1
      have h2 := hb a (by simp)
      revert h1 h2
      cases a with
      | mk op ws => cases op <;> simp [View.safeStep]
    | cons b bs => exact ⟨h.1, ih _ h.2 (fun m hm => hb m (by simp at hm ⊢; tauto))⟩

/-! ### The framing procedures -/

theorem View.frame_safe (cmd : Byte) (args : Option TxSource) (v : View) (h : v.ready)
    (ha : args = none ∨ (1 ≤ (frameBytes v args).length ∧ (frameBytes v args).length ≤ 131070)) :
    View.stepsSafe (frame cmd args) v := by
  obtain ⟨ls, se, ⟨c1, c2, c3⟩, ⟨d1, d2, d3⟩, ⟨r1, r2, r3⟩, ab, rb⟩ := v
  obtain ⟨⟨h1, h2, h3, h4, h5, h6⟩, h7, h8, h9⟩ := h
  simp only at h1 h2 h3 h4 h5 h6 h7 h8 h9
  subst h1 h2 h3 h4 h5 h6 h7 h9
  have hb : ls ≠ .busConfigured := by rcases h8 with rfl | rfl | rfl <;> simp
  cases args with
  | none =>
    simp [frame, frameArgs, plain, View.stepsSafe, View.safeStep, View.after, View.afterOp, View.drives,
      View.transferReady, phaseOk, View.aborted, View.atRest, LineReg.settled, View.source, h8, hb, View.linesDriven]
  | some src =>
    simp only [frameBytes, false_or, reduceCtorEq] at ha
    have hsb : ∀ (w : View) bs, w.source (.bytes bs) = bs := fun _ _ => rfl
    have hsrc : ∀ a b c d e, View.source ⟨a, b, c, d, e, ab, rb⟩ src =
        View.source ⟨ls, .closed, ⟨c1, true, true⟩, ⟨d1, true, true⟩, ⟨true, true, true⟩, ab, rb⟩ src := by
      intros; cases src <;> rfl
    simp [frame, frameArgs, plain, View.stepsSafe, View.safeStep, View.after, View.afterOp, View.drives,
      View.transferReady, phaseOk, View.aborted, View.atRest, LineReg.settled, h8, hb, View.linesDriven, hsb]
    rw [hsrc]
    simpa using ha

theorem View.frame_ready (cmd : Byte) (args : Option TxSource) (v : View) (h : v.ready) :
    (v.afterAll (frame cmd args)).ready := by
  rw [View.afterAll_frame]
  obtain ⟨⟨h1, h2, h3, h4, h5, h6⟩, h7, h8, h9⟩ := h
  exact ⟨⟨h1, h2, h3, rfl, rfl, h6⟩, h7, h8, h9⟩

/-- The window procedure is safe, with or without `ROWBUF` written after it. -/
theorem View.window_safe (c : Config) (x1 y1 x2 y2 : Word16) (dir : Dir) (bs : List Byte) (v : View) (h : v.ready) :
    View.stepsSafe (window c x1 y1 x2 y2 dir) v ∧
      View.stepsSafe (thenWrite (.rowBuf bs) (window c x1 y1 x2 y2 dir)) v := by
  obtain ⟨ls, se, ⟨c1, c2, c3⟩, ⟨d1, d2, d3⟩, ⟨r1, r2, r3⟩, ab, rb⟩ := v
  obtain ⟨⟨h1, h2, h3, h4, h5, h6⟩, h7, h8, h9⟩ := h
  simp only at h1 h2 h3 h4 h5 h6 h7 h8 h9
  subst h1 h2 h3 h4 h5 h6 h7 h9
  have hb : ls ≠ .busConfigured := by rcases h8 with rfl | rfl | rfl <;> simp
  constructor <;>
    simp [window, thenWrite, plain, View.stepsSafe, View.safeStep, View.after, View.afterOp, View.drives,
      View.transferReady, phaseOk, View.aborted, View.atRest, LineReg.settled, View.source, h8, hb, View.linesDriven,
      boundBytes, be16]

theorem View.rows_safe (n : Nat) (v : View) (h : v.transferReady) (hd : v.dc.level = true)
    (hl : 1 ≤ v.rowBuf.length ∧ v.rowBuf.length ≤ 131070) (ha : v.aborted.atRest) :
    View.stepsSafe (List.replicate n (plain (.tx .rowBuf .row))) v := by
  induction n with
  | zero => trivial
  | succ n ih => exact ⟨⟨h, ⟨hl.1, hl.2, by simp [hd]⟩, ha⟩, ih⟩

/-! ### Running a safe list -/

/-- A step that ends its request by an error leaves a state that meets the invariant. -/
theorem Micro.perform_ended_inv (m : Micro) (s t : State) (hc : s.cfg.Valid) (hf : s.ctl.fb.wf)
    (hs : s.view.safeStep m) (ht : m.perform s = .ended t) : t.inv := by
  have hwf : t.ctl.fb.wf := by simpa [ht, Progress.state] using m.perform_wf s hf
  rcases m.perform_cases s with ⟨u, hu, -⟩ | ⟨u, hu, r, c⟩ | ⟨u, hu, -⟩
  · rw [hu] at ht; cases ht
  · rw [hu] at ht; cases ht
    have hv := r.view
    obtain ⟨op, ws⟩ := m
    refine ⟨?_, hwf, ?_, ?_⟩
    · have : ((Micro.mk op ws).onError u).cfg = u.cfg := by
        unfold Micro.onError
        cases op <;> simp [State.abort] <;> first | (split_ifs <;> rfl) | exact (u.writeAll_kept ws).cfg
      rw [this, r.cfg]
      exact hc
    · intro _
      cases op with
      | tx src tmo =>
        refine View.atRest_congr ?_ ?_ ?_ ?_ ?_ hs.2.2 <;>
          simp only [Micro.onError, State.abort, View.aborted, State.view, View.afterOp, View.mk.injEq] at hv ⊢ <;>
          split_ifs <;> simp_all
      | busSetup =>
        refine View.atRest_congr ?_ ?_ ?_ ?_ ?_ hs.2 <;>
          simp only [Micro.onError, State.abort, View.aborted, State.view, View.afterOp, View.mk.injEq] at hv ⊢ <;>
          split_ifs <;> simp_all
      | busClose =>
        simp only [View.safeStep] at hs
        simp only [View.afterOp] at hv
        rw [← hv, ← State.view_writeAll] at hs
        exact View.atRest_congr rfl rfl rfl rfl rfl hs
      | mode p => simp [MicroOp.canRaise] at c
      | line p v => simp [MicroOp.canRaise] at c
      | delay d => simp [MicroOp.canRaise] at c
    · intro h
      exfalso
      revert h
      unfold Micro.onError
      cases op <;> simp [State.abort, State.respond]
  · rw [hu] at ht; cases ht

/-- Running a safe rest of a micro-program keeps the invariant, whatever the transport answers. -/
theorem runMicros_inv (ms0 ms : List Micro) (s : State) (hc : s.cfg.Valid) (hf : s.ctl.fb.wf) (hb : s.busy = true)
    (hp : microProgram s.cfg s.lat = some ms0) (hu : s.upc ≤ ms0.length) (hd : ms0.drop s.upc = ms)
    (hs : View.safeRun ms s.view) : (runMicros ms s).inv := by
  induction ms generalizing s with
  | nil =>
    exact ⟨hc, hf, fun _ => View.atRest_congr rfl rfl rfl rfl rfl hs,
      fun h => absurd h (by simp [runMicros, Progress.finish])⟩
  | cons m ms ih =>
    have e : runMicros (m :: ms) s = ((m.perform s).andThen (runSeq ms)).finish := by rw [runMicros, runSeq_cons]
    have hwf := m.perform_wf s hf
    rcases m.perform_cases s with ⟨u, hu', st⟩ | ⟨u, hu', r, c⟩ | ⟨u, hu', w⟩
    · rw [e, hu']
      rw [hu'] at hwf
      have hlt : s.upc < ms0.length := by
        by_contra hh
        rw [List.drop_eq_nil_of_le (by omega)] at hd
        cases hd
      refine ih u (by rw [st.cfg]; exact hc) hwf (by rw [st.busy]; exact hb) (by rw [st.cfg, st.lat]; exact hp)
        (by rw [st.upc]; omega) ?_ (by rw [st.view]; exact hs.2)
      rw [st.upc, ← List.drop_drop, hd]
      rfl
    · rw [e, hu']
      exact m.perform_ended_inv s _ hc hf hs.1 hu'
    · rw [e, hu']
      rw [hu'] at hwf
      obtain ⟨tx, bus, n, rfl⟩ := w.same
      exact ⟨hc, hwf, fun h => absurd h (by simp [Progress.andThen, Progress.finish, hb]), fun _ => ⟨ms0, hp, hu, by
        show View.safeRun (ms0.drop s.upc) s.view
        rw [hd]
        exact hs⟩⟩

end Sys2Proof.Machine
end

