-- ==== Sys2Proof/Laws/Controller.lean ====
section
/-! SUPPORT. What the reference controller makes of a successful run: its state after a list of steps, the window a
window frame sets, which pixels a row of bytes stores, and that `ORDER` reaches every pixel of the window. -/

namespace Sys2Proof.Machine

theorem word16_hi_lo (v : Word16) : word16 (hi v) (lo v) = v := by
  apply BitVec.eq_of_toNat_eq
  have := v.isLt
  simp [word16, hi, lo]
  omega

/-! ### The controller after steps whose calls succeed -/

/-- The step does not reset the controller. -/
def Micro.keepsController (m : Micro) : Prop := m.op ≠ .line .rst false

theorem Micro.perform_ctl (m : Micro) (s t : State) (h : m.perform s = .running t) (hr : m.keepsController) :
    t.ctl = s.ctl.afterOp s.cfg s.view m.op := by
  unfold Micro.perform at h
  cases hx : m.op.run s with
  | raised u => rw [hx] at h; cases h
  | blocked u => rw [hx] at h; cases h
  | completed u =>
    rw [hx] at h; cases h
    have e : ((u.writeAll m.writes).advance).ctl = u.ctl := by simp [(u.writeAll_kept m.writes).ctl]
    rw [e]
    unfold Micro.keepsController at hr
    cases hop : m.op with
    | mode p => rw [hop] at hx; cases p <;> cases hx <;> rfl
    | delay d => rw [hop] at hx; cases hx; rfl
    | line p v => rw [hop] at hx hr; cases p <;> cases v <;> cases hx <;> first | rfl | simp at hr
    | tx src tmo =>
      rw [hop] at hx
      obtain ⟨sc, n, h2, -, -⟩ := s.nextTx_spec
      simp only [MicroOp.run, State.tx] at hx
      rcases hr : s.nextTx with ⟨r, w⟩
      rw [hr] at h2 hx
      subst h2
      cases r with
      | pending => cases hx
      | answer a =>
        dsimp only at hx
        split_ifs at hx
        cases hx
        simp [Controller.afterOp]
        rfl
    | busSetup =>
      rw [hop] at hx
      obtain ⟨sc, n, h2, -, -⟩ := s.nextBus_spec
      simp only [MicroOp.run, State.busSetup] at hx
      rcases hr : s.nextBus with ⟨r, w⟩
      rw [hr] at h2 hx
      subst h2
      cases r with
      | pending => cases hx
      | answer a => cases a <;> cases hx; rfl
    | busClose =>
      rw [hop] at hx
      obtain ⟨sc, n, h2, -, -⟩ := s.nextBus_spec
      simp only [MicroOp.run, State.busClose] at hx
      rcases hr : s.nextBus with ⟨r, w⟩
      rw [hr] at h2 hx
      subst h2
      cases r with
      | pending => cases hx
      | answer a => cases a <;> cases hx; rfl

/-- The controller after a list of steps that all succeed. -/
def Controller.afterAll (g : Config) : List Micro → View → Controller → Controller
  | [], _, c => c
  | m :: ms, v, c => Controller.afterAll g ms (v.after m) (c.afterOp g v m.op)

theorem Controller.afterAll_append (g : Config) (xs ys : List Micro) (v : View) (c : Controller) :
    Controller.afterAll g (xs ++ ys) v c =
      Controller.afterAll g ys (v.afterAll xs) (Controller.afterAll g xs v c) := by
  induction xs generalizing v c with
  | nil => rfl
  | cons m ms ih => simp [Controller.afterAll, ih, View.afterAll]

theorem runSeq_running_ctl (ms : List Micro) (s t : State) (h : runSeq ms s = .running t)
    (hr : ∀ m ∈ ms, m.keepsController) : t.ctl = Controller.afterAll s.cfg ms s.view s.ctl := by
  induction ms generalizing s with
  | nil => cases h; rfl
  | cons m ms ih =>
    rw [runSeq_cons] at h
    rcases m.perform_cases s with ⟨u, hu, st⟩ | ⟨u, hu, _⟩ | ⟨u, hu, _⟩
    · rw [hu] at h
      have h1 := ih u h (fun x hx => hr x (by simp [hx]))
      rw [st.cfg, st.view, m.perform_ctl s u hu (hr m (by simp))] at h1
      exact h1
    · rw [hu] at h; cases h
    · rw [hu] at h; cases h

/-- What a window frame for writing makes of the controller: the window, and a memory-write at its first pixel. -/
theorem Controller.afterAll_window (g : Config) (hg : g.OpcodesOk) (x1 y1 x2 y2 : Word16) (v : View) (c : Controller)
    (bs : List Byte) :
    Controller.afterAll g (thenWrite (.rowBuf bs) (window g x1 y1 x2 y2 .write)) v c = { c with
      cx1 := x1, cx2 := x2, py1 := y1, py2 := y2, op := .ramwr, params := [], k := 0 } := by
  obtain ⟨hn, -⟩ := hg
  simp [Config.ownOpcodes] at hn
  obtain ⟨⟨n1, n2, -, -, -⟩, ⟨n6, -, -, -⟩, -, -⟩ := hn
  simp [window, thenWrite, plain, Controller.afterAll, Controller.afterOp, View.after, View.afterOp, View.source,
    boundBytes, be16, Controller.receive, Controller.opcode, Controller.param, openingOpcode, word16_hi_lo,
    Ne.symm n1, Ne.symm n2, Ne.symm n6]

/-! ### The order of the pixels -/

theorem Controller.locate_mem (o : ScanOrder) (c : Controller) (k : Nat) (hx : c.cx1.toNat ≤ c.cx2.toNat)
    (hy : c.py1.toNat ≤ c.py2.toNat) (hk : k < c.columns * c.rows) :
    c.cx1.toNat ≤ (c.locate o k).1 ∧ (c.locate o k).1 ≤ c.cx2.toNat ∧
      c.py1.toNat ≤ (c.locate o k).2 ∧ (c.locate o k).2 ≤ c.py2.toNat := by
  have hc : c.columns = c.cx2.toNat - c.cx1.toNat + 1 := by unfold Controller.columns; omega
  have hr : c.rows = c.py2.toNat - c.py1.toNat + 1 := by unfold Controller.rows; omega
  have a1 : k % c.columns < c.columns := Nat.mod_lt _ (by omega)
  have a2 : k / c.columns < c.rows := Nat.div_lt_of_lt_mul hk
  have a3 : k % c.rows < c.rows := Nat.mod_lt _ (by omega)
  have a4 : k / c.rows < c.columns := Nat.div_lt_of_lt_mul (by rw [Nat.mul_comm]; exact hk)
  obtain ⟨a, b, d⟩ := o
  cases a <;> cases b <;> cases d <;> simp [Controller.locate] <;> omega

/-- Every pixel of the window has a number. -/
theorem Controller.locate_surjective (o : ScanOrder) (c : Controller) (hx : c.cx1.toNat ≤ c.cx2.toNat)
    (hy : c.py1.toNat ≤ c.py2.toNat) (col row : Nat) (h1 : c.cx1.toNat ≤ col) (h2 : col ≤ c.cx2.toNat)
    (h3 : c.py1.toNat ≤ row) (h4 : row ≤ c.py2.toNat) :
    ∃ k < c.columns * c.rows, c.locate o k = (col, row) := by
  have hc : c.columns = c.cx2.toNat - c.cx1.toNat + 1 := by unfold Controller.columns; omega
  have hr : c.rows = c.py2.toNat - c.py1.toNat + 1 := by unfold Controller.rows; omega
  obtain ⟨a, b, d⟩ := o
  have key : ∀ m n i j : Nat, i < m → j < n →
      i + m * j < m * n ∧ (i + m * j) % m = i ∧ (i + m * j) / m = j := by
    intro m n i j hi hj
    refine ⟨?_, ?_, ?_⟩
    · calc i + m * j < m + m * j := by omega
        _ = m * (j + 1) := by ring
        _ ≤ _ := Nat.mul_le_mul_left _ hj
    · rw [Nat.add_mul_mod_self_left, Nat.mod_eq_of_lt hi]
    · rw [Nat.add_mul_div_left _ _ (by omega), Nat.div_eq_of_lt hi]
      omega
  have ci : (if b then c.cx2.toNat - col else col - c.cx1.toNat) < c.columns := by split_ifs <;> omega
  have rj : (if d then c.py2.toNat - row else row - c.py1.toNat) < c.rows := by split_ifs <;> omega
  cases a
  · obtain ⟨p1, p2, p3⟩ := key _ _ _ _ ci rj
    refine ⟨_, p1, ?_⟩
    simp only [Controller.locate, p2, p3]
    cases b <;> cases d <;> simp <;> omega
  · obtain ⟨q1, q2, q3⟩ := key _ _ _ _ rj ci
    refine ⟨_, by rw [Nat.mul_comm c.columns]; exact q1, ?_⟩
    simp only [Controller.locate, q2, q3]
    cases b <;> cases d <;> simp <;> omega

/-- What `SCAN_ORDER` says of a window: nothing, or an order that names every pixel number once. -/
theorem Controller.pixelNumber_cases (g : Config) (hg : g.ScanOk) (c : Controller) :
    (∀ k, c.pixelNumber g.scanOrder k = k) ∨
    ∃ ns : List Nat, ns.Perm (List.range (c.columns * c.rows)) ∧ ∀ k, c.pixelNumber g.scanOrder k = ns.getD k k := by
  cases hf : g.scanOrder.listed.find?
      (fun e => e.x1 = c.cx1 ∧ e.y1 = c.py1 ∧ e.x2 = c.cx2 ∧ e.y2 = c.py2) with
  | none => exact .inl fun k => by simp only [Controller.pixelNumber, hf]
  | some e =>
    have hm := hg e (List.mem_of_find?_eq_some hf)
    have he := List.find?_some hf
    simp only [decide_eq_true_eq] at he
    obtain ⟨h1, h2, h3, h4⟩ := he
    refine .inr ⟨e.order, ?_, fun k => by simp only [Controller.pixelNumber, hf]⟩
    rwa [ScanEntry.area, h1, h2, h3, h4] at hm

theorem Controller.pixelNumber_lt (g : Config) (hg : g.ScanOk) (c : Controller) (k : Nat)
    (hk : k < c.columns * c.rows) : c.pixelNumber g.scanOrder k < c.columns * c.rows := by
  rcases c.pixelNumber_cases g hg with h | ⟨ns, hp, h⟩
  · rwa [h]
  · have hl : k < ns.length := by rw [hp.length_eq, List.length_range]; exact hk
    rw [h, List.getD_eq_getElem _ _ hl]
    exact List.mem_range.1 (hp.mem_iff.1 (List.getElem_mem hl))

theorem Controller.pixelNumber_surjective (g : Config) (hg : g.ScanOk) (c : Controller) (n : Nat)
    (hn : n < c.columns * c.rows) : ∃ k < c.columns * c.rows, c.pixelNumber g.scanOrder k = n := by
  rcases c.pixelNumber_cases g hg with h | ⟨ns, hp, h⟩
  · exact ⟨n, hn, h n⟩
  · obtain ⟨k, hk, e⟩ := List.getElem_of_mem (hp.mem_iff.2 (List.mem_range.2 hn))
    exact ⟨k, by rw [← List.length_range (n := c.columns * c.rows), ← hp.length_eq]; exact hk,
      by rw [h, List.getD_eq_getElem _ _ hk, e]⟩

/-- `ORDER` depends on the window alone. -/
theorem Controller.order_congr (o : ScanOrder) {c d : Controller} (h1 : d.cx1 = c.cx1) (h2 : d.cx2 = c.cx2)
    (h3 : d.py1 = c.py1) (h4 : d.py2 = c.py2) : d.order o = c.order o := by
  funext k
  simp [Controller.order, Controller.locate, Controller.pixelNumber, Controller.columns, Controller.rows, h1, h2, h3, h4]

/-- `ORDER` stays inside the window (R66). -/
theorem Controller.order_mem (g : Config) (hg : g.ScanOk) (c : Controller) (k : Nat) (hx : c.cx1.toNat ≤ c.cx2.toNat)
    (hy : c.py1.toNat ≤ c.py2.toNat) (hk : k < c.columns * c.rows) :
    c.cx1.toNat ≤ (c.order g.scanOrder k).1 ∧ (c.order g.scanOrder k).1 ≤ c.cx2.toNat ∧
      c.py1.toNat ≤ (c.order g.scanOrder k).2 ∧ (c.order g.scanOrder k).2 ≤ c.py2.toNat :=
  c.locate_mem g.scanOrder _ hx hy (c.pixelNumber_lt g hg k hk)

/-- `ORDER` reaches every pixel of the window (R66). -/
theorem Controller.order_surjective (g : Config) (hg : g.ScanOk) (c : Controller) (hx : c.cx1.toNat ≤ c.cx2.toNat)
    (hy : c.py1.toNat ≤ c.py2.toNat) (col row : Nat) (h1 : c.cx1.toNat ≤ col) (h2 : col ≤ c.cx2.toNat)
    (h3 : c.py1.toNat ≤ row) (h4 : row ≤ c.py2.toNat) :
    ∃ k < c.columns * c.rows, c.order g.scanOrder k = (col, row) := by
  obtain ⟨n, hn, e⟩ := c.locate_surjective g.scanOrder hx hy col row h1 h2 h3 h4
  obtain ⟨k, hk, e'⟩ := c.pixelNumber_surjective g hg n hn
  exact ⟨k, hk, by rw [Controller.order, e', e]⟩

/-! ### Storing pixels -/

/-- The window is inside the panel and not inverted. -/
structure Controller.InPanel (g : Config) (c : Controller) : Prop where
  x : c.cx1.toNat ≤ c.cx2.toNat
  xw : c.cx2.toNat < g.width
  y : c.py1.toNat ≤ c.py2.toNat
  yh : c.py2.toNat < g.height

theorem Controller.storePixel_eq (g : Config) (c : Controller) (h l : Byte)
    (hk : c.k < c.columns * c.rows) :
    c.storePixel g h l = { c with
      k := c.k + 1
      fb := (c.fb.write (pixelAddress (c.order g.scanOrder c.k).1 (c.order g.scanOrder c.k).2) h).write
        (pixelAddress (c.order g.scanOrder c.k).1 (c.order g.scanOrder c.k).2 + 1) l } := by
  unfold Controller.storePixel
  rw [if_pos hk]

/-- One data byte of a memory-write: half a pixel, or the pixel at the counter. -/
theorem Controller.param_ramwr (g : Config) (c : Controller) (b : Byte) (ho : c.op = .ramwr)
    (hk : c.params ≠ [] → c.k < c.columns * c.rows) :
    (c.param g b).op = .ramwr ∧ (c.param g b).cx1 = c.cx1 ∧ (c.param g b).cx2 = c.cx2 ∧
      (c.param g b).py1 = c.py1 ∧ (c.param g b).py2 = c.py2 ∧
      ((c.params = [] ∧ (c.param g b).params ≠ [] ∧ (c.param g b).k = c.k ∧ (c.param g b).fb = c.fb) ∨
       (c.params ≠ [] ∧ (c.param g b).params = [] ∧ (c.param g b).k = c.k + 1 ∧
        ∀ a, a ≠ pixelAddress (c.order g.scanOrder c.k).1 (c.order g.scanOrder c.k).2 →
          a ≠ pixelAddress (c.order g.scanOrder c.k).1 (c.order g.scanOrder c.k).2 + 1 →
          (c.param g b).fb.read a = c.fb.read a)) := by
  obtain ⟨x1, x2, y1, y2, op, ps, k, fb⟩ := c
  simp only at ho
  subst ho
  cases ps with
  | nil => simp [Controller.param]
  | cons h ps =>
    have e := Controller.storePixel_eq g ⟨x1, x2, y1, y2, .ramwr, h :: ps, k, fb⟩ h b (hk (by simp))
    unfold Controller.param
    dsimp only
    rw [e]
    refine ⟨rfl, rfl, rfl, rfl, rfl, .inr ⟨by simp, rfl, rfl, fun a h1 h2 => ?_⟩⟩
    rw [Memory.read_write_other _ _ _ _ h2, Memory.read_write_other _ _ _ _ h1]

/-- Data bytes of a memory-write store only into the next `m` pixels, if they complete no more than `m`. -/
theorem Controller.receive_ramwr (g : Config) (bytes : List Byte) (c : Controller)
    (ho : c.op = .ramwr) (m : Nat) (hm : (bytes.length + (if c.params = [] then 0 else 1)) / 2 ≤ m)
    (hk : c.k + m ≤ c.columns * c.rows) :
    (c.receive g false true bytes).op = .ramwr ∧
      (c.receive g false true bytes).k = c.k + (bytes.length + (if c.params = [] then 0 else 1)) / 2 ∧
      (∀ a, (∀ j, j < m →
          a ≠ pixelAddress (c.order g.scanOrder (c.k + j)).1 (c.order g.scanOrder (c.k + j)).2 ∧
          a ≠ pixelAddress (c.order g.scanOrder (c.k + j)).1 (c.order g.scanOrder (c.k + j)).2 + 1) →
        (c.receive g false true bytes).fb.read a = c.fb.read a) := by
  simp only [Controller.receive, Bool.false_eq_true, if_false, if_true]
  induction bytes generalizing c m with
  | nil =>
    refine ⟨ho, ?_, fun _ _ => rfl⟩
    simp
    split_ifs <;> omega
  | cons b bs ih =>
    obtain ⟨p1, p2, p3, p4, p5, p6⟩ := c.param_ramwr g b ho (fun h => by rw [if_neg h] at hm; simp at hm; omega)
    have hcr : (c.param g b).columns = c.columns ∧ (c.param g b).rows = c.rows := by
      simp [Controller.columns, Controller.rows, p2, p3, p4, p5]
    have hord : ∀ k, (c.param g b).order g.scanOrder k = c.order g.scanOrder k :=
      congrFun (Controller.order_congr _ p2 p3 p4 p5)
    simp only [List.foldl_cons]
    rcases p6 with ⟨a1, a2, a3, a4⟩ | ⟨a1, a2, a3, a4⟩
    · obtain ⟨i1, i6, i7⟩ := ih (c.param g b) p1 m
        (by rw [if_neg a2]; rw [if_pos a1] at hm; simp at hm; omega) (by rw [hcr.1, hcr.2, a3]; exact hk)
      refine ⟨i1, ?_, fun a ha => ?_⟩
      · rw [i6, if_neg a2, if_pos a1, a3]; simp
      · rw [i7 a (fun j hj => by rw [hord, a3]; exact ha j hj), a4]
    · have hm1 : 1 ≤ m := by rw [if_neg a1] at hm; simp at hm; omega
      obtain ⟨i1, i6, i7⟩ := ih (c.param g b) p1 (m - 1)
        (by rw [if_pos a2]; rw [if_neg a1] at hm; simp at hm ⊢; omega) (by rw [hcr.1, hcr.2, a3]; omega)
      refine ⟨i1, ?_, fun a ha => ?_⟩
      · rw [i6, if_pos a2, if_neg a1, a3]; simp; omega
      · rw [i7 a (fun j hj => by
          rw [hord, a3]
          have := ha (j + 1) (by omega)
          rw [show c.k + 1 + j = c.k + (j + 1) by omega]
          exact this), a4 a (ha 0 (by omega)).1 (ha 0 (by omega)).2]

/-- What a stretch of `n` pixels of one colour leaves: those pixels hold it, and pixels that held it still do. -/
structure Controller.Coloured (g : Config) (n : Nat) (color : Word16) (c d : Controller) : Prop where
  op : d.op = .ramwr
  params : d.params = []
  cx1 : d.cx1 = c.cx1
  cx2 : d.cx2 = c.cx2
  py1 : d.py1 = c.py1
  py2 : d.py2 = c.py2
  k : d.k = c.k + n
  new : ∀ j < n, d.pixel (c.order g.scanOrder (c.k + j)).1 (c.order g.scanOrder (c.k + j)).2 = some color
  old : ∀ col row, col < 65536 → c.pixel col row = some color → d.pixel col row = some color

theorem Controller.receive_row (g : Config) (hg : g.ScanOk) (n : Nat) (color : Word16) (c : Controller) (hp : c.InPanel g)
    (ho : c.op = .ramwr) (hq : c.params = []) (hk : c.k + n ≤ c.columns * c.rows) (hw : g.width ≤ 65535) :
    Controller.Coloured g n color c (c.receive g false true (rep n (be16 color))) := by
  simp only [Controller.receive, Bool.false_eq_true, if_false, if_true]
  induction n generalizing c with
  | zero => exact ⟨ho, hq, rfl, rfl, rfl, rfl, rfl, by simp, fun _ _ _ h => h⟩
  | succ n ih =>
    have er : rep (n + 1) (be16 color) = hi color :: lo color :: rep n (be16 color) := by
      simp [rep, List.replicate_succ, be16]
    rw [er]
    simp only [List.foldl_cons]
    set c1 := (c.param g (hi color)).param g (lo color) with hc1
    set p := c.order g.scanOrder c.k with hpp
    have e : c1 = { c with
        k := c.k + 1
        fb := (c.fb.write (pixelAddress p.1 p.2) (hi color)).write (pixelAddress p.1 p.2 + 1) (lo color) } := by
      obtain ⟨x1, x2, y1, y2, op, ps, k, fb⟩ := c
      simp only at ho hq
      subst ho hq
      have e := Controller.storePixel_eq g ⟨x1, x2, y1, y2, .ramwr, [hi color], k, fb⟩ (hi color) (lo color)
        (by
          show k < _
          simp only [Controller.columns, Controller.rows] at hk ⊢
          omega)
      rw [hc1, hpp]
      show Controller.param g ⟨x1, x2, y1, y2, .ramwr, [hi color], k, fb⟩ (lo color) = _
      unfold Controller.param
      dsimp only
      rw [e]
      rfl
    have hord : ∀ k, c1.order g.scanOrder k = c.order g.scanOrder k := by intro k; rw [e]; rfl
    have i := ih c1 (by rw [e]; exact ⟨hp.x, hp.xw, hp.y, hp.yh⟩) (by rw [e]; exact ho) (by rw [e]; exact hq)
      (by rw [e]; show c.k + 1 + n ≤ c.columns * c.rows; omega)
    have hin := c.order_mem g hg c.k hp.x hp.y (by omega)
    rw [← hpp] at hin
    have hxw := hp.xw
    have new : c1.pixel p.1 p.2 = some color := by
      rw [e]
      simp only [Controller.pixel]
      rw [Memory.read_write_same, Memory.read_write_other _ _ _ _ (by omega), Memory.read_write_same]
      simp [word16_hi_lo]
    have old : ∀ col row, col < 65536 → c.pixel col row = some color → c1.pixel col row = some color := by
      intro col row hcol hold
      by_cases heq : (col, row) = p
      · rw [← heq] at new
        exact new
      · have ne1 : pixelAddress col row ≠ pixelAddress p.1 p.2 := by
          intro h
          apply heq
          obtain ⟨h1, h2⟩ := pixelAddress_inj hcol (by omega) h
          rw [h1, h2]
        rw [e]
        unfold Controller.pixel at hold ⊢
        dsimp only
        rw [Memory.read_write_other _ _ _ _ (pixelAddress_ne_succ _ _ _ _), Memory.read_write_other _ _ _ _ ne1,
          Memory.read_write_other _ _ _ _ (by omega),
          Memory.read_write_other _ _ _ _ (Ne.symm (pixelAddress_ne_succ _ _ _ _))]
        exact hold
    refine ⟨i.op, i.params, i.cx1.trans (by rw [e]), i.cx2.trans (by rw [e]), i.py1.trans (by rw [e]),
      i.py2.trans (by rw [e]), by rw [i.k, e]; show c.k + 1 + n = _; omega, fun j hj => ?_,
      fun col row hcol h => i.old col row hcol (old col row hcol h)⟩
    cases j with
    | zero => exact i.old _ _ (by show p.1 < _; omega) new
    | succ j =>
      have := i.new j (by omega)
      rw [hord] at this
      rw [show c.k + (j + 1) = c1.k + j by rw [e]; show _ = c.k + 1 + j; omega]
      exact this

/-- The row transfers of a fill, all successful. -/
theorem Controller.afterAll_rows (g : Config) (hg : g.ScanOk) (hw : g.width ≤ 65535) (r n : Nat) (color : Word16) (v : View)
    (hcs : v.cs.level = false) (hdc : v.dc.level = true) (hb : v.rowBuf = rep n (be16 color)) (c : Controller)
    (hp : c.InPanel g) (ho : c.op = .ramwr) (hq : c.params = []) (hk : c.k + r * n ≤ c.columns * c.rows) :
    Controller.Coloured g (r * n) color c
      (Controller.afterAll g (List.replicate r (plain (.tx .rowBuf .row))) v c) := by
  induction r generalizing c with
  | zero =>
    rw [Nat.zero_mul]
    exact ⟨ho, hq, rfl, rfl, rfl, rfl, rfl, by simp, fun _ _ _ h => h⟩
  | succ r ih =>
    have e : Controller.afterAll g (List.replicate (r + 1) (plain (.tx .rowBuf .row))) v c =
        Controller.afterAll g (List.replicate r (plain (.tx .rowBuf .row))) v
          (c.receive g false true (rep n (be16 color))) := by
      rw [List.replicate_succ, Controller.afterAll]
      simp [plain, Controller.afterOp, View.source, hcs, hdc, hb, View.after, View.afterOp]
    rw [e]
    rw [Nat.succ_mul] at hk ⊢
    have a := c.receive_row g hg n color hp ho hq (by omega) hw
    set c1 := c.receive g false true (rep n (be16 color)) with hc1
    have hord : ∀ k, c1.order g.scanOrder k = c.order g.scanOrder k :=
      congrFun (Controller.order_congr _ a.cx1 a.cx2 a.py1 a.py2)
    have hcr : c1.columns = c.columns ∧ c1.rows = c.rows := by
      simp [Controller.columns, Controller.rows, a.cx1, a.cx2, a.py1, a.py2]
    have i := ih c1 ⟨by rw [a.cx1, a.cx2]; exact hp.x, by rw [a.cx2]; exact hp.xw, by rw [a.py1, a.py2]; exact hp.y,
      by rw [a.py2]; exact hp.yh⟩ a.op a.params (by rw [hcr.1, hcr.2, a.k]; omega)
    refine ⟨i.op, i.params, i.cx1.trans a.cx1, i.cx2.trans a.cx2, i.py1.trans a.py1, i.py2.trans a.py2,
      by rw [i.k, a.k]; omega, fun j hj => ?_, fun col row hcol h => i.old col row hcol (a.old col row hcol h)⟩
    by_cases hjn : j < n
    · refine i.old _ _ ?_ (a.new j hjn)
      have := c.order_mem g hg (c.k + j) hp.x hp.y (by omega)
      have := hp.xw
      omega
    · have := i.new (j - n) (by omega)
      rw [hord, a.k, show c.k + n + (j - n) = c.k + j by omega] at this
      exact this

end Sys2Proof.Machine
end

