-- ==== Sys2Proof/Laws/PerInstr.lean ====
section
/-! SUPPORT. One fact per request, for every request: the packet it is encoded as has the opcode and the length that
spec/30_encoding.md R90 gives. -/

namespace Sys2Proof.Laws

/-- The `OPR` column of R90. -/
def opcodeOf : Instr → Byte
  | .initialise => 0x01
  | .cleanup => 0x02
  | .sendBare _ => 0x10
  | .send _ _ => 0x11
  | .setWindow _ _ _ _ _ => 0x20
  | .stream _ => 0x21
  | .endSession => 0x22
  | .fillRect _ _ _ _ _ => 0x30

/-- The packet length column of R90. -/
def lengthOf : Instr → Nat
  | .initialise => 1
  | .cleanup => 1
  | .sendBare _ => 2
  | .send _ args => 4 + args.length
  | .setWindow _ _ _ _ _ => 10
  | .stream data => 3 + data.length
  | .endSession => 1
  | .fillRect _ _ _ _ _ => 11

/-- The packet of a request starts with its opcode and has its length. -/
def PacketShape.Statement (i : Instr) : Prop :=
  ∃ ops, encode i = opcodeOf i :: ops ∧ ops.length + 1 = lengthOf i

theorem PacketShape.initialise : PacketShape.Statement .initialise := ⟨_, rfl, rfl⟩

theorem PacketShape.cleanup : PacketShape.Statement .cleanup := ⟨_, rfl, rfl⟩

theorem PacketShape.sendBare (cmd : Byte) : PacketShape.Statement (.sendBare cmd) := ⟨_, rfl, rfl⟩

theorem PacketShape.send (cmd : Byte) (args : List Byte) : PacketShape.Statement (.send cmd args) :=
  ⟨_, rfl, by simp [be16, lengthOf]; omega⟩

theorem PacketShape.setWindow (dir : Dir) (x1 y1 x2 y2 : Word16) :
    PacketShape.Statement (.setWindow dir x1 y1 x2 y2) := ⟨_, rfl, rfl⟩

theorem PacketShape.stream (data : List Byte) : PacketShape.Statement (.stream data) :=
  ⟨_, rfl, by simp [be16, lengthOf]; omega⟩

theorem PacketShape.endSession : PacketShape.Statement .endSession := ⟨_, rfl, rfl⟩

theorem PacketShape.fillRect (x y w h color : Word16) : PacketShape.Statement (.fillRect x y w h color) :=
  ⟨_, rfl, rfl⟩

end Sys2Proof.Laws
end

