-- ==== Sys2Proof/Tests/Slice0.lean ====
section
/-! SUPPORT. The model's own tests. Expected results are copied from spec/95_test_vectors.md, whose vector each test
names, or worked out from the rule it names; and for every statement with hypotheses a witness that meets them. -/

namespace Sys2Proof.Tests

open Sys2Proof.Machine

/-! ### Small states -/

/-- `A0` of the test vectors: after a successful INITIALIZE. -/
def ready : State :=
  { State.reset with lstate := .active, cs := ⟨true, true, true⟩, dc := ⟨false, true, true⟩, rst := ⟨true, true, true⟩ }

/-- `A0` after `set_window 0, 0, 1, 0, write`, with the controller in the memory-write that opens. -/
def opened : State :=
  { ready with
    session := .openWrite
    cs := ⟨false, true, true⟩
    dc := ⟨true, true, true⟩
    ctl := { Controller.reset with cx2 := 1, op := .ramwr } }

/-- The transport lets transfers of these lengths succeed. -/
def withOk (lens : List Nat) (s : State) : State := { s with txScript := okReplies lens }

/-- The transport gives these answers to the next transfers. -/
def withTx (as : List TxAnswer) (s : State) : State := { s with txScript := as.map .answer }

/-- The transport gives this answer to the next setup or close. -/
def withBus (a : BusAnswer) (s : State) : State := { s with busScript := [.answer a] }

/-- This packet is presented. -/
def withPacket (p : List Byte) (s : State) : State := { s with inputs := [.packet p] }

/-- The state an outcome leads to. -/
def after : Host.Outcome State Fault Refusal → State
  | .next t => t
  | .fault _ => State.reset
  | .refused _ => State.reset

/-- The transfer lengths of a successful INITIALIZE with the reference table. -/
def bringupLengths : List Nat := [1, 3, 1, 2, 1, 3, 1, 1, 1, 1, 1, 1, 1, 1, 1, 3, 1, 1, 1, 1, 1, 1]

/-- A `SEND` that the transport keeps waiting in its argument frame. -/
def waiting : State :=
  { ready with
    busy := true
    upc := 4
    lat := { Latches.reset with opr := 0x11, cmd := 0x36, narg := 1 }
    argBuf := [0x48]
    cs := ⟨false, true, true⟩
    dc := ⟨true, true, true⟩ }

/-- INITIALIZE just before the last delay of step (e), the step that makes the panel active. -/
def bringingUp : State :=
  { ready with
    lstate := .registersProgrammed
    busy := true
    upc := 81
    lat := { Latches.reset with opr := 0x01 } }

/-! ### Well-formedness: the one check, each way -/

theorem test_wellFormed_send_longest : Instr.wellFormed (.send 0x36 (List.replicate 65535 0)) = true := by
  simp only [Instr.wellFormed, List.length_replicate]; decide

theorem test_wellFormed_send_too_long : Instr.wellFormed (.send 0x36 (List.replicate 65536 0)) = false := by
  simp only [Instr.wellFormed, List.length_replicate]; decide

theorem test_wellFormed_stream_longest : Instr.wellFormed (.stream (List.replicate 65535 0)) = true := by
  simp only [Instr.wellFormed, List.length_replicate]; decide

theorem test_wellFormed_stream_too_long : Instr.wellFormed (.stream (List.replicate 65536 0)) = false := by
  simp only [Instr.wellFormed, List.length_replicate]; decide

/-! ### The reference parameters meet the constraints of R6 to R8 -/

theorem test_reference_valid : Config.reference.Valid := by decide

/-! ### Decoding: vectors D-1 to D-12 and D-20 to D-33 -/

theorem test_decode_D1_D2_D3 :
    decode [0x01] = .ok .initialise ∧ decode [0x02] = .ok .cleanup ∧ decode [0x22] = .ok .endSession := by decide

theorem test_decode_D4 : decode [0x10, 0x29] = .ok (.sendBare 0x29) := by decide

theorem test_decode_D5_D6 :
    decode [0x11, 0x36, 0x00, 0x01, 0x48] = .ok (.send 0x36 [0x48]) ∧
    decode [0x11, 0x10, 0x00, 0x00] = .ok (.send 0x10 []) := by decide

theorem test_decode_D7 : decode [0x11, 0xE0, 0x00, 0x03, 0x00, 0x03, 0x09] = .ok (.send 0xE0 [0x00, 0x03, 0x09]) := by
  decide

theorem test_decode_D8 :
    decode [0x20, 0x00, 0x00, 0x64, 0x00, 0xC8, 0x00, 0x65, 0x00, 0xC9] =
      .ok (.setWindow .write 100 200 101 201) := by decide

theorem test_decode_D9 :
    decode [0x20, 0x01, 0x00, 0x05, 0x00, 0x07, 0x00, 0x05, 0x00, 0x07] = .ok (.setWindow .read 5 7 5 7) := by decide

theorem test_decode_D10 :
    decode [0x21, 0x00, 0x04, 0x07, 0xE0, 0x07, 0xE0] = .ok (.stream [0x07, 0xE0, 0x07, 0xE0]) := by decide

theorem test_decode_D11 :
    decode [0x30, 0x01, 0x36, 0x01, 0x36, 0x00, 0x32, 0x00, 0x32, 0xFF, 0xFF] =
      .ok (.fillRect 310 310 50 50 0xFFFF) := by decide

theorem test_decode_D12 :
    decode [0x30, 0x01, 0x3F, 0x00, 0x00, 0xFF, 0xFF, 0x00, 0x01, 0xFF, 0xE0] =
      .ok (.fillRect 319 0 65535 1 0xFFE0) := by decide

theorem test_decode_refuses_D20_D21_D22 :
    decode [] = .error .emptyPacket ∧ decode [0x00] = .error (.reservedOpcode 0x00) ∧
    decode [0x03] = .error (.reservedOpcode 0x03) ∧ decode [0x0F] = .error (.reservedOpcode 0x0F) ∧
    decode [0x12] = .error (.reservedOpcode 0x12) ∧ decode [0x1F] = .error (.reservedOpcode 0x1F) ∧
    decode [0x23] = .error (.reservedOpcode 0x23) ∧ decode [0x2F] = .error (.reservedOpcode 0x2F) ∧
    decode [0x31] = .error (.reservedOpcode 0x31) ∧ decode [0xFF] = .error (.reservedOpcode 0xFF) := by decide

theorem test_decode_refuses_D23_to_D28 :
    decode [0x01, 0x00] = .error (.wrongLength 0x01) ∧ decode [0x10] = .error (.wrongLength 0x10) ∧
    decode [0x10, 0x29, 0x00] = .error (.wrongLength 0x10) ∧ decode [0x11, 0x36, 0x00] = .error (.noNarg 0x11) ∧
    decode [0x11, 0x36, 0x00, 0x02, 0x48] = .error (.wrongLength 0x11) ∧
    decode [0x11, 0x36, 0x00, 0x00, 0x48] = .error (.wrongLength 0x11) := by decide

theorem test_decode_refuses_D29_to_D33 :
    decode [0x20, 0x00, 0x00, 0x00, 0x00, 0x00, 0x01, 0x3F, 0x01] = .error (.wrongLength 0x20) ∧
    decode [0x21, 0x00, 0x02, 0xAA] = .error (.wrongLength 0x21) ∧
    decode [0x30, 0x00, 0x00, 0x00, 0x00, 0x00, 0x01, 0x00, 0x01, 0xF8] = .error (.wrongLength 0x30) ∧
    decode [0x20, 0x02, 0x00, 0x00, 0x00, 0x00, 0x00, 0x01, 0x00, 0x01] = .error (.illegalDir 0x02) := by decide

/-- Words of the opcode table, byte 0 in bits 7..0, operand bytes above. -/
theorem test_decodeTableWord :
    decodeTableWord 8 0x01 = some .initialise ∧ decodeTableWord 16 0x2910 = some (.sendBare 0x29) ∧
    decodeTableWord 8 0x11 = some (.send 0 []) ∧ decodeTableWord 40 0x4801003611 = some (.send 0x36 [0x48]) ∧
    decodeTableWord 8 0x20 = some (.setWindow .write 0 0 0 0) ∧ decodeTableWord 8 0x21 = some (.stream []) ∧
    decodeTableWord 8 0x30 = some (.fillRect 0 0 0 0 0) ∧ decodeTableWord 8 0x03 = none := by decide

/-- What `withFetchWord` presents is what the very next step runs. -/
theorem test_withFetchWord_runs :
    step (State.reset.withFetchWord 16 0x2910) = exec (.sendBare 0x29) State.reset ∧
    (after (step (ready.withFetchWord 8 0x30))).status = .ok := ⟨rfl, by decide⟩

/-! ### The requests, from spec/95_test_vectors.md -/

theorem test_sendBare_E1 :
    (after (exec (.sendBare 0x29) (withOk [1] ready))).trace =
      [.line .cs false, .line .dc false, .tx [0x29] .cmd (.ok 1), .line .cs true] ∧
    (after (exec (.sendBare 0x29) (withOk [1] ready))).status = .ok := by decide

theorem test_sendBare_E7_count_too_large :
    (after (exec (.sendBare 0x29) (withTx [.ok 2] ready))).trace =
      [.line .cs false, .line .dc false, .tx [0x29] .cmd (.ok 2), .line .cs true] ∧
    (after (exec (.sendBare 0x29) (withTx [.ok 2] ready))).status = .transportError := by decide

theorem test_send_E3 :
    (after (exec (.send 0x36 [0x48]) (withOk [1, 1] ready))).trace =
      [.line .cs false, .line .dc false, .tx [0x36] .cmd (.ok 1), .line .dc true, .tx [0x48] .cmd (.ok 1),
       .line .cs true] ∧
    (after (exec (.send 0x36 [0x48]) (withOk [1, 1] ready))).dc.level = true := by decide

theorem test_send_E6_short_count :
    (after (exec (.send 0xE0 [1, 2, 3]) (withTx [.ok 1, .ok 2] ready))).trace =
      [.line .cs false, .line .dc false, .tx [0xE0] .cmd (.ok 1), .line .dc true, .tx [1, 2, 3] .cmd (.ok 2),
       .line .cs true] ∧
    (after (exec (.send 0xE0 [1, 2, 3]) (withTx [.ok 1, .ok 2] ready))).status = .transportError := by decide

theorem test_setWindow_W2 :
    (after (exec (.setWindow .read 5 7 5 7) (withOk [1, 4, 1, 4, 1] ready))).trace =
      [.line .cs false, .line .dc false, .tx [0x2A] .cmd (.ok 1), .line .dc true, .tx [0, 5, 0, 5] .cmd (.ok 4),
       .line .dc false, .tx [0x2B] .cmd (.ok 1), .line .dc true, .tx [0, 7, 0, 7] .cmd (.ok 4), .line .dc false,
       .tx [0x2E] .cmd (.ok 1), .line .dc true] ∧
    (after (exec (.setWindow .read 5 7 5 7) (withOk [1, 4, 1, 4, 1] ready))).session = .openRead := by decide

theorem test_setWindow_W3_5_last_transfer_fails :
    (after (exec (.setWindow .write 1 2 3 4) (withTx [.ok 1, .ok 4, .ok 1, .ok 4, .err] ready))).trace =
      [.line .cs false, .line .dc false, .tx [0x2A] .cmd (.ok 1), .line .dc true, .tx [0, 1, 0, 3] .cmd (.ok 4),
       .line .dc false, .tx [0x2B] .cmd (.ok 1), .line .dc true, .tx [0, 2, 0, 4] .cmd (.ok 4), .line .dc false,
       .tx [0x2C] .cmd .err, .line .cs true] ∧
    (after (exec (.setWindow .write 1 2 3 4) (withTx [.ok 1, .ok 4, .ok 1, .ok 4, .err] ready))).dc.level = false := by
  decide

theorem test_stream_T1_odd_count :
    (after (exec (.stream [0x12]) (withOk [1] opened))).trace = [.tx [0x12] .row (.ok 1)] ∧
    (after (exec (.stream [0x12]) (withOk [1] opened))).session = .openWrite := by decide

theorem test_stream_T3_short_count :
    (after (exec (.stream [0xF8, 0, 0xF8, 0]) (withTx [.ok 3] opened))).trace =
      [.tx [0xF8, 0, 0xF8, 0] .row (.ok 3), .line .cs true] ∧
    (after (exec (.stream [0xF8, 0, 0xF8, 0]) (withTx [.ok 3] opened))).session = .closed := by decide

theorem test_endSession_T1 :
    (after (exec .endSession opened)).trace = [.line .cs true] ∧
    (after (exec .endSession opened)).session = .closed := by decide

theorem test_endSession_T4_refused :
    exec .endSession ready = .next { ready with status := .preconditionViolation, responses := [0x02] } := rfl

theorem test_fillRect_F3 :
    (after (exec (.fillRect 318 0 5 1 0x07E0) (withOk [1, 4, 1, 4, 1, 4] ready))).trace =
      [.line .cs false, .line .dc false, .tx [0x2A] .cmd (.ok 1), .line .dc true, .tx [1, 0x3E, 1, 0x3F] .cmd (.ok 4),
       .line .dc false, .tx [0x2B] .cmd (.ok 1), .line .dc true, .tx [0, 0, 0, 0] .cmd (.ok 4), .line .dc false,
       .tx [0x2C] .cmd (.ok 1), .line .dc true, .tx [0x07, 0xE0, 0x07, 0xE0] .row (.ok 4), .line .cs true] := by decide

/-- The pixel-level reading of F-1: the four pixels are red, their neighbour is not known. -/
theorem test_fillRect_F1_pixels :
    (after (exec (.fillRect 0 0 2 2 0xF800) (withOk [1, 4, 1, 4, 1, 4, 4] ready))).ctl.pixel 0 0 = some 0xF800 ∧
    (after (exec (.fillRect 0 0 2 2 0xF800) (withOk [1, 4, 1, 4, 1, 4, 4] ready))).ctl.pixel 1 1 = some 0xF800 ∧
    (after (exec (.fillRect 0 0 2 2 0xF800) (withOk [1, 4, 1, 4, 1, 4, 4] ready))).ctl.pixel 2 0 = none := by decide

/-- R66: a pixel is stored at `ORDER(k)` outside the panel too, and every other pixel keeps its value. -/
theorem test_store_outside_panel_R66 :
    (({ Controller.reset with cx1 := 400, cx2 := 400, op := .ramwr, fb := [(0, 1)] } : Controller).receive
      Config.reference false true [0xF8, 0x1F]).pixel 400 0 = some 0xF81F ∧
    (({ Controller.reset with cx1 := 400, cx2 := 400, op := .ramwr, fb := [(0, 1)] } : Controller).receive
      Config.reference false true [0xF8, 0x1F]).fb.read 0 = some 1 := by decide

/-- R66: `SCAN_ORDER` may be any one-to-one map; here the three pixels of a window in the order 1, 2, 0. -/
theorem test_scan_order_listed_R66 :
    ({ Config.reference with scanOrder := ⟨false, false, false, [⟨5, 7, 7, 7, [1, 2, 0]⟩]⟩ } : Config).ScanOk ∧
    ({ Controller.reset with cx1 := 5, cx2 := 7, py1 := 7, py2 := 7 } : Controller).order
      ⟨false, false, false, [⟨5, 7, 7, 7, [1, 2, 0]⟩]⟩ 1 = (7, 7) := by decide

/-- R241: the reset pulse clears what the controller had half-received, whatever that was. -/
theorem test_reset_pulse_clears_half_received_R241 (s : State) :
    (s.line .rst false).ctl.op = .none ∧ (s.line .rst false).ctl.params = [] := ⟨rfl, rfl⟩

theorem test_clip_F6_F7_no_wrap :
    clip Config.reference 0 0 0 5 = none ∧ clip Config.reference 319 0 65535 1 = some (319, 0) := by decide

set_option maxRecDepth 4000 in
/-- Program P1: 82 events, ACTIVE at the end. -/
theorem test_initialise_B1 :
    (after (exec .initialise (withBus .ok (withOk bringupLengths State.reset)))).trace.length = 82 ∧
    (after (exec .initialise (withBus .ok (withOk bringupLengths State.reset)))).lstate = .active := by decide

set_option maxRecDepth 4000 in
theorem test_initialise_B4_first_transfer_fails :
    (after (exec .initialise (withBus .ok (withTx [.err] State.reset)))).trace.length = 16 ∧
    (after (exec .initialise (withBus .ok (withTx [.err] State.reset)))).lstate = .resetSettled := by decide

theorem test_cleanup_B10 :
    (after (exec .cleanup (withBus .ok ready))).trace = [.close .ok] ∧
    (after (exec .cleanup (withBus .ok ready))).lstate = .uninitialized := by decide

theorem test_cleanup_B12_error :
    (after (exec .cleanup (withBus .err ready))).status = .transportError ∧
    (after (exec .cleanup (withBus .err ready))).lstate = .uninitialized := by decide

/-- A transfer the transport has not answered keeps the framer busy (R122); the answer lets the request finish. -/
theorem test_resume_after_pending :
    (after (exec (.send 0x36 [0x48]) { ready with txScript := [.answer (.ok 1), .pending] })).busy = true ∧
    (after (exec (.send 0x36 [0x48]) { ready with txScript := [.answer (.ok 1), .pending] })).upc = 4 ∧
    (after (step (withOk [1] waiting))).trace = [.tx [0x48] .cmd (.ok 1), .line .cs true] ∧
    (after (step (withOk [1] waiting))).status = .ok := by decide

/-- R81: a packet presented while the framer is busy stays at the port. -/
theorem test_packet_held_while_busy :
    (after (step (withPacket [0x22] (withOk [1] waiting)))).inputs = [.packet [0x22]] := by decide

/-! ### Witnesses: for every statement with hypotheses, a state and operands that meet them all -/

theorem ready_inv : ready.inv :=
  ⟨by decide, by decide, fun _ => by decide, fun h => absurd h (by decide)⟩

theorem opened_inv : opened.inv :=
  ⟨by decide, by decide, fun _ => by decide, fun h => absurd h (by decide)⟩

theorem waiting_inv : waiting.inv :=
  ⟨by decide, by decide, fun h => absurd h (by decide), fun _ => ⟨_, rfl, by decide, by
    simp [waiting, ready, sendProgram, frame, frameArgs, plain, View.safeRun, View.safeStep, View.after, View.afterOp,
      View.drives, View.transferReady, phaseOk, View.aborted, View.atRest, View.linesDriven, LineReg.settled,
      View.source, State.view, State.reset, Latches.reset]⟩⟩

theorem test_witness_OwnResetGivesResetValues : ready.inputs = [] := rfl

theorem test_witness_OwnResetStrikesAtAnyMoment :
    ({ waiting with inputs := [.ownReset] } : State).inputs = .ownReset :: [] := rfl

theorem test_witness_BusyFramerHoldsPackets :
    (withPacket [0x22] (withOk [1] waiting)).busy = true ∧
    (withPacket [0x22] (withOk [1] waiting)).inputs = .packet [0x22] :: [] ∧
    ∃ t, step (withPacket [0x22] (withOk [1] waiting)) = .next t := ⟨rfl, rfl, _, rfl⟩

theorem test_witness_StepRunsDecodedRequest :
    (withPacket [0x22] ready).busy = false ∧ (withPacket [0x22] ready).inputs = .packet [0x22] :: [] ∧
    decode [0x22] = .ok .endSession := by decide

theorem test_witness_EncodeOfDecode : decode [0x21, 0x00, 0x01, 0x12] = .ok (.stream [0x12]) := by decide

/-- The empty packet, and reserved opcodes at the edges of the reserved ranges. -/
theorem test_witness_ReservedOpcodeRefused :
    ready.busy = false ∧ (withPacket [] ready).inputs = .packet [] :: [] ∧
    (0x00 : Byte) ∉ ([0x01, 0x02, 0x10, 0x11, 0x20, 0x21, 0x22, 0x30] : List Byte) ∧
    (0x03 : Byte) ∉ ([0x01, 0x02, 0x10, 0x11, 0x20, 0x21, 0x22, 0x30] : List Byte) ∧
    (0x31 : Byte) ∉ ([0x01, 0x02, 0x10, 0x11, 0x20, 0x21, 0x22, 0x30] : List Byte) ∧
    (0xFF : Byte) ∉ ([0x01, 0x02, 0x10, 0x11, 0x20, 0x21, 0x22, 0x30] : List Byte) := by decide

/-- One malformed packet per clause, one byte away from the right length. -/
theorem test_witness_MalformedPacketRefused :
    (withPacket [0x01, 0x00] ready).inputs = .packet (0x01 :: [0x00]) :: [] ∧ ([0x00] : List Byte).length ≠ 0 ∧
    ([] : List Byte).length ≠ 1 ∧ ([0x29, 0x00] : List Byte).length ≠ 1 ∧
    (List.replicate 8 (0 : Byte)).length ≠ 9 ∧ (List.replicate 10 (0 : Byte)).length ≠ 9 ∧
    (List.replicate 9 (0 : Byte)).length ≠ 10 ∧ (List.replicate 11 (0 : Byte)).length ≠ 10 ∧
    ([0x36, 0x00] : List Byte).length < 3 ∧ ([0x48] : List Byte).length ≠ (0x00 : Byte).toNat * 256 + (0x02 : Byte).toNat ∧
    ([0x00] : List Byte).length < 2 ∧ ([0xAA] : List Byte).length ≠ (0x01 : Byte).toNat * 256 + (0x00 : Byte).toNat := by
  decide

/-- `CMD` outside the set, a region one past each bound and inverted by one, and the first illegal `DIR`. -/
theorem test_witness_IllegalOperandsRefused :
    ready.busy = false ∧ (0xFF : Byte) ∉ ready.cfg.cmdSet ∧
    ¬ ((0 : Word16).toNat ≤ (320 : Word16).toNat ∧ (320 : Word16).toNat + 1 ≤ ready.cfg.width ∧
      (0 : Word16).toNat ≤ (319 : Word16).toNat ∧ (319 : Word16).toNat + 1 ≤ ready.cfg.height) ∧
    ¬ ((5 : Word16).toNat ≤ (4 : Word16).toNat ∧ (4 : Word16).toNat + 1 ≤ ready.cfg.width ∧
      (0 : Word16).toNat ≤ (0 : Word16).toNat ∧ (0 : Word16).toNat + 1 ≤ ready.cfg.height) ∧
    (0x02 : Byte) ≠ 0x00 ∧ (0x02 : Byte) ≠ 0x01 ∧
    (withPacket [0x20, 0x02, 0, 0, 0, 0, 0, 1, 0, 1] ready).inputs =
      .packet [0x20, 0x02, 0, 0, 0, 0, 0, 1, 0, 1] :: [] := by decide

/-- A state for each row of the admission table in which its request is not admitted. -/
theorem test_witness_UnadmittedRequestsRefused :
    ready.busy = false ∧ ready.lstate ≠ .uninitialized ∧ State.reset.busy = false ∧
    State.reset.lstate = .uninitialized ∧ opened.busy = false ∧ opened.session ≠ .closed ∧
    ready.session ≠ .openWrite ∧ ready.session = .closed := by decide

set_option maxRecDepth 4000 in
/-- An admitted request of each kind, with legal operands at the edge of the panel, that completes. -/
theorem test_witness_AdmittedRequestsNeverRefused :
    (State.reset.lstate = .uninitialized ∧
      (after (exec .initialise (withBus .ok (withOk bringupLengths State.reset)))).busy = false) ∧
    (ready.lstate ≠ .uninitialized ∧ ready.session = .closed ∧ (after (exec .cleanup (withBus .ok ready))).busy = false) ∧
    (ready.lstate = .active ∧ (0x29 : Byte) ∈ ready.cfg.cmdSet ∧
      (after (exec (.sendBare 0x29) (withOk [1] ready))).busy = false ∧
      (after (exec (.send 0x29 []) (withOk [1] ready))).busy = false) ∧
    ((319 : Word16).toNat < ready.cfg.width ∧ (319 : Word16).toNat < ready.cfg.height ∧
      (after (exec (.setWindow .write 319 319 319 319) (withOk windowLengths ready))).busy = false) ∧
    (opened.session = .openWrite ∧ ([0x12] : List Byte) ≠ [] ∧
      (after (exec (.stream [0x12]) (withOk [1] opened))).busy = false) ∧
    (opened.session ≠ .closed ∧ (after (exec .endSession opened)).busy = false) ∧
    (after (exec (.fillRect 320 0 1 1 0) ready)).busy = false := by decide

/-- With and without argument bytes. -/
theorem test_witness_SendEmitsCommandFrame :
    (withOk [1, 1] ready).busy = false ∧ (withOk [1, 1] ready).lstate = .active ∧
    (withOk [1, 1] ready).session = .closed ∧ (0x36 : Byte) ∈ ready.cfg.cmdSet ∧ ([0x48] : List Byte).length ≤ 65535 ∧
    (withOk [1, 1] ready).txScript = okReplies (if ([0x48] : List Byte) = [] then [1] else [1, 1]) ++ [] ∧
    (withOk [1] ready).txScript = okReplies (if ([] : List Byte) = [] then [1] else [1, 0]) ++ [] := by decide

theorem test_witness_SendBareEmitsFourEvents :
    (withTx [.ok 1] ready).busy = false ∧ (withTx [.ok 1] ready).lstate = .active ∧
    (withTx [.ok 1] ready).session = .closed ∧ (0x29 : Byte) ∈ ready.cfg.cmdSet ∧
    (withTx [.ok 1] ready).txScript = .answer (.ok 1) :: [] ∧ (withTx [.err] ready).txScript = .answer .err :: [] ∧
    State.reset.lstate ≠ .active ∧ opened.session ≠ .closed ∧ (0xFF : Byte) ∉ ready.cfg.cmdSet := by decide

theorem test_witness_answersAtOnce : ready.busy = false ∧ ready.answersAtOnce :=
  ⟨rfl, by simp [State.answersAtOnce, ready, State.reset]⟩

theorem test_witness_SetWindowEmitsWindowFrame :
    (withOk [1, 4, 1, 4, 1] ready).busy = false ∧ (withOk [1, 4, 1, 4, 1] ready).lstate = .active ∧
    (withOk [1, 4, 1, 4, 1] ready).session = .closed ∧ (0 : Word16).toNat ≤ (319 : Word16).toNat ∧
    (319 : Word16).toNat < ready.cfg.width ∧ (319 : Word16).toNat < ready.cfg.height ∧
    (withOk [1, 4, 1, 4, 1] ready).txScript = okReplies [1, 4, 1, 4, 1] ++ [] := by decide

theorem test_witness_StreamSendsOneRowTransfer :
    ([0x12] : List Byte).length ≤ 65535 ∧ opened.busy = false ∧ opened.session = .openWrite ∧ ([0x12] : List Byte) ≠ [] ∧
    (withTx [.ok 1] opened).txScript = .answer (.ok 1) :: [] ∧ TxAnswer.ok 1 = .ok ([0x12] : List Byte).length ∧
    (withTx [.err] opened).txScript = .answer .err :: [] ∧ TxAnswer.err ≠ .ok ([0x12] : List Byte).length ∧
    ready.session ≠ .openWrite := by decide

theorem test_witness_EndSessionReleasesChipSelect :
    opened.busy = false ∧ opened.session ≠ .closed ∧ ready.busy = false ∧ ready.session = .closed := by decide

/-- Vector F-3: clipped to two columns. -/
theorem test_witness_FillRectDrawsClippedRows :
    (withOk [1, 4, 1, 4, 1, 4] ready).busy = false ∧ (withOk [1, 4, 1, 4, 1, 4] ready).lstate = .active ∧
    (withOk [1, 4, 1, 4, 1, 4] ready).session = .closed ∧ clipsTo ready.cfg 318 0 5 1 319 0 ∧
    (withOk [1, 4, 1, 4, 1, 4] ready).txScript = okReplies (fillLengths 318 0 319 0) ++ [] ∧
    fillLengths 318 0 319 0 = [1, 4, 1, 4, 1]
      ++ List.replicate ((0 : Word16).toNat - (0 : Word16).toNat + 1) (2 * ((319 : Word16).toNat - (318 : Word16).toNat + 1)) ∧
    2 * ((319 : Word16).toNat - (318 : Word16).toNat + 1) ≤ 65535 := by
  refine ⟨rfl, rfl, rfl, ?_, rfl, rfl, by decide⟩
  unfold clipsTo
  decide

/-- Each way to have nothing to draw, at its boundary. -/
theorem test_witness_DegenerateFillIsSilent :
    ready.busy = false ∧ ready.lstate = .active ∧ ready.session = .closed ∧
    ready.cfg.width ≤ (320 : Word16).toNat ∧ ready.cfg.height ≤ (320 : Word16).toNat ∧ (0 : Word16) = 0 := by decide

theorem test_witness_ClipHasNoWrapAround :
    Config.reference.DimsOk ∧ clip Config.reference 319 319 65535 1 = some (319, 319) ∧
    clip Config.reference 320 0 1 1 = none := by decide

theorem test_witness_FillSetsEveryPixelOfTheClip :
    ready.cfg.Valid ∧ (withOk [1, 4, 1, 4, 1, 4] ready).busy = false ∧
    (∃ t, exec (.fillRect 318 0 5 1 0x07E0) (withOk [1, 4, 1, 4, 1, 4] ready) = .next t ∧ t.busy = false ∧
      t.status = .ok) ∧
    inClip ready.cfg 318 0 5 1 318 0 ∧ inClip ready.cfg 318 0 5 1 319 0 ∧ ¬ inClip ready.cfg 318 0 5 1 320 0 := by
  refine ⟨by decide, rfl, ⟨_, rfl, by decide, by decide⟩, ?_, ?_, ?_⟩ <;> unfold inClip <;> decide

/-- An address outside the clip exists. -/
theorem test_witness_FillTouchesNothingOutsideTheClip :
    ready.cfg.Valid ∧ ready.busy = false ∧ (∃ t, exec (.fillRect 0 0 1 1 0xF800) ready = .next t) ∧
    ∀ col row, inClip ready.cfg 0 0 1 1 col row → 2 ≠ pixelAddress col row ∧ 2 ≠ pixelAddress col row + 1 := by
  refine ⟨by decide, rfl, ⟨_, rfl⟩, fun col row h => ?_⟩
  simp [inClip] at h
  unfold pixelAddress
  omega

theorem test_witness_InitializeBringsPanelUp :
    State.reset.busy = false ∧ State.reset.lstate = .uninitialized ∧ State.reset.session = .closed ∧
    (withBus .ok State.reset).busScript = .answer .ok :: [] ∧
    (withOk bringupLengths State.reset).txScript =
      okReplies (tableLengths Config.reference.initTable ++ [1, 1]) ++ [] := by decide

theorem test_witness_FailedSetupStaysUninitialized :
    State.reset.busy = false ∧ State.reset.lstate = .uninitialized ∧
    (withBus .err State.reset).busScript = .answer .err :: [] := by decide

/-- The last transfer of step (d) and the first of step (e). -/
theorem test_witness_FailedBringupKeepsLastStateReached :
    (withBus .ok State.reset).busScript = .answer .ok :: [] ∧
    (tableLengths Config.reference.initTable ++ [1, 1])[19]? = some 1 ∧
    (tableLengths Config.reference.initTable ++ [1, 1])[20]? = some 1 ∧
    (tableLengths Config.reference.initTable).length = 20 ∧ TxAnswer.err ≠ .ok 1 ∧ TxAnswer.ok 0 ≠ .ok 1 ∧
    (withTx [.err] State.reset).txScript =
      okReplies ((tableLengths Config.reference.initTable ++ [1, 1]).take 0) ++ .answer .err :: [] := by decide

theorem test_witness_CleanupClosesTheBus :
    ready.busy = false ∧ ready.lstate ≠ .uninitialized ∧ ready.session = .closed ∧
    (withBus .err ready).busScript = .answer .err :: [] ∧ State.reset.lstate = .uninitialized ∧
    opened.session ≠ .closed := by decide

/-- Each of the three requests, failing at its first transfer, by an error and by a short count. -/
theorem test_witness_FailedTransferEndsTheRequest :
    ready.busy = false ∧ ready.lstate = .active ∧ ready.session = .closed ∧ (0x36 : Byte) ∈ ready.cfg.cmdSet ∧
    (frameLengths ([0x48] : List Byte))[1]? = some 1 ∧ (319 : Word16).toNat < ready.cfg.width ∧
    windowLengths[0]? = some 1 ∧ clipsTo ready.cfg 318 0 5 1 319 0 ∧ (fillLengths 318 0 319 0)[5]? = some 4 ∧
    TxAnswer.err ≠ .ok 1 ∧ TxAnswer.ok 3 ≠ .ok 4 ∧
    (withTx [.err] ready).txScript = okReplies (windowLengths.take 0) ++ .answer .err :: [] := by
  refine ⟨rfl, rfl, rfl, by decide, rfl, by decide, rfl, ?_, rfl, by decide, by decide, rfl⟩
  unfold clipsTo
  decide

theorem test_witness_TransferSucceedsOnlyOnFullCount :
    (withTx [.ok 1] ready).txScript = .answer (.ok 1) :: [] := rfl

/-- Both errors, from exec and from a step; the last two steps end a request the transport kept waiting, and refuse a
packet. -/
theorem test_witness_ErrorsLeaveTheBusIdle :
    ready.inv ∧ ready.busy = false ∧
    (∃ t, exec .cleanup (withBus .err ready) = .next t ∧ t.busy = false ∧ t.status = .transportError) ∧
    (∃ t, exec .endSession ready = .next t ∧ t.busy = false ∧ t.status = .preconditionViolation) ∧
    (withBus .err ready).inv ∧ (withTx [.err] waiting).inv ∧ (withPacket [0x22] ready).inv ∧
    (∃ t, step (withTx [.err] waiting) = .next t ∧ t.busy = false ∧ t.status = .transportError ∧
      t.responses = (withTx [.err] waiting).responses ++ [t.status.byte]) ∧
    ∃ t, step (withPacket [0x22] ready) = .next t ∧ t.busy = false ∧ t.status = .preconditionViolation ∧
      t.responses = (withPacket [0x22] ready).responses ++ [t.status.byte] :=
  ⟨ready_inv, rfl, ⟨_, rfl, by decide, by decide⟩, ⟨_, rfl, by decide, by decide⟩, ready_inv, waiting_inv, ready_inv,
    ⟨_, rfl, by decide, by decide, by decide⟩, ⟨_, rfl, by decide, by decide, by decide⟩⟩

/-- An idle and a busy state that meet the invariant and go on. -/
theorem test_witness_StepKeepsInvariant :
    opened.inv ∧ waiting.inv ∧ (∃ t, step opened = .next t) ∧ ∃ t, step waiting = .next t :=
  ⟨opened_inv, waiting_inv, ⟨_, rfl⟩, ⟨_, rfl⟩⟩

theorem test_witness_StepKeepsTraceSafety :
    State.reset.inv ∧ State.reset.traceSafe ∧ ∃ t, step State.reset = .next t :=
  ⟨⟨by decide, by decide, fun _ => by decide, fun h => absurd h (by decide)⟩, ⟨trivial, rfl⟩, ⟨_, rfl⟩⟩

theorem test_witness_ChipSelectMatchesSession :
    opened.inv ∧ opened.busy = false ∧ opened.cs.oe = true ∧ opened.session ≠ .closed :=
  ⟨opened_inv, rfl, rfl, by decide⟩

theorem test_witness_TransfersOnlyInsideASession :
    waiting.inv ∧ waiting.busy = true ∧ microProgram waiting.cfg waiting.lat = some (sendProgram waiting.lat) ∧
    (sendProgram waiting.lat)[waiting.upc]? = some ⟨.tx .argBuf .cmd, []⟩ :=
  ⟨waiting_inv, rfl, rfl, rfl⟩

/-- SET_WINDOW opens such a session, STREAM keeps one, and a request kept waiting meets the window invariant too. -/
theorem test_witness_OpenWriteSessionHasAWindow :
    ready.inv ∧ ready.windowInv ∧ opened.inv ∧ opened.windowInv ∧ opened.busy = false ∧ opened.session = .openWrite ∧
    waiting.inv ∧ waiting.windowInv ∧ (∃ t, step waiting = .next t) ∧
    (after (exec (.setWindow .write 0 0 1 0) (withOk windowLengths ready))).session = .openWrite ∧
    (after (exec (.setWindow .write 0 0 1 0) (withOk windowLengths ready))).busy = false :=
  ⟨ready_inv, ⟨fun _ h => absurd h (by decide), fun h => absurd h (by decide)⟩, opened_inv,
    ⟨fun _ _ => ⟨rfl, by decide, by decide, by decide, by decide⟩, fun h => absurd h (by decide)⟩, rfl, rfl, waiting_inv,
    ⟨fun h => absurd h (by decide), fun _ ms h => by
      cases h
      exact ⟨fun _ => ⟨fun _ h => absurd h (by decide), fun h => absurd h (by decide)⟩, fun h => absurd h (by decide)⟩⟩,
    ⟨_, rfl⟩, by decide, by decide⟩

/-- An accepted request of each kind that runs micro-operations, two that run none, and a running one. -/
theorem test_witness_RequestIsItsMicroSteps :
    (∃ a, State.reset.accepted .initialise = some a) ∧ (∃ a, ready.accepted .cleanup = some a) ∧
    (∃ a, ready.accepted (.sendBare 0x29) = some a) ∧ (∃ a, ready.accepted (.send 0x36 [0x48]) = some a) ∧
    (∃ a, ready.accepted (.setWindow .read 5 7 5 7) = some a) ∧ (∃ a, opened.accepted (.stream [1]) = some a) ∧
    (∃ a, opened.accepted .endSession = some a) ∧ (∃ a, ready.accepted (.fillRect 318 0 5 1 0) = some a) ∧
    ready.accepted .endSession = none ∧ ready.accepted (.fillRect 320 0 1 1 0) = none ∧
    waiting.busy = true ∧ ∃ t, waiting.resume = .next t :=
  ⟨⟨_, rfl⟩, ⟨_, rfl⟩, ⟨_, rfl⟩, ⟨_, rfl⟩, ⟨_, rfl⟩, ⟨_, rfl⟩, ⟨_, rfl⟩, ⟨_, rfl⟩, rfl, rfl, rfl, _, rfl⟩

theorem test_witness_MicroStepKeepsInvariant :
    waiting.inv ∧ ready.inv ∧ ready.busy = false ∧ Instr.wellFormed (.send 0x36 [0x48]) = true ∧
    ∃ a, ready.accepted (.send 0x36 [0x48]) = some a := ⟨waiting_inv, ready_inv, rfl, by decide, _, rfl⟩

/-- A step of an idle framer with nothing presented, and one of a busy framer: neither is the own reset. -/
theorem test_witness_steps :
    (∃ t, step ready = .next t) ∧ (∃ t, step waiting = .next t) ∧ ∀ rest, ready.inputs ≠ .ownReset :: rest :=
  ⟨⟨_, rfl⟩, ⟨_, rfl⟩, fun _ h => by simp [ready, State.reset] at h⟩

theorem test_witness_LifecycleChangesOnlyByItsTable :
    State.reset.busy = false ∧ State.reset.lstate = .uninitialized ∧ ready.lstate ≠ .uninitialized ∧
    (∃ t, exec .initialise (withBus .ok (withTx [.err] State.reset)) = .next t ∧ t.busy = false) ∧
    (∃ t, exec .endSession opened = .next t) ∧
    bringingUp.lifecycleInv ∧ (∀ rest, bringingUp.inputs ≠ .ownReset :: rest) ∧
    bringingUp.currentOpcode = some 0x01 ∧ bringingUp.busy = true ∧
    (∃ t, step bringingUp = .next t ∧ t.busy = false ∧ t.lstate = .active) ∧
    (withPacket [0x02] ready).currentOpcode = some 0x02 ∧ (withPacket [0x22] ready).currentOpcode = some 0x22 :=
  ⟨rfl, rfl, by decide, ⟨_, rfl, by decide⟩, ⟨_, rfl⟩, fun _ _ => by decide, fun _ h => by simp [bringingUp, ready, State.reset] at h,
    rfl, rfl, ⟨_, rfl, by decide, by decide⟩, by decide, by decide⟩

/-- The step that ends bring-up moves to the last of the five states. -/
theorem test_witness_InitializeSkipsNoLifecycleState :
    bringingUp.cfg.Valid ∧ bringingUp.lifecycleInv ∧ bringingUp.busy = true ∧ bringingUp.lat.opr = 0x01 ∧
    (∃ t, step bringingUp = .next t) ∧
    bringingUp.microStep.lstate.code.toNat = bringingUp.lstate.code.toNat + 1 :=
  ⟨by decide, fun _ _ => by decide, rfl, rfl, ⟨_, rfl⟩, by decide⟩

/-- From exec, from a packet, and at the end of a request that was running. -/
theorem test_witness_OnlySetWindowOpensASession :
    ready.busy = false ∧ (∃ t, exec (.setWindow .read 5 7 5 7) (withOk windowLengths ready) = .next t ∧
      t.busy = false ∧ t.session ≠ .closed) ∧
    (∃ t, step (withPacket [0x20, 0x01, 0, 5, 0, 7, 0, 5, 0, 7] (withOk windowLengths ready)) = .next t ∧
      t.busy = false ∧ t.session = .openRead) ∧
    ∃ t, step { waiting with upc := 11, lat := { Latches.reset with opr := 0x20 } } = .next t ∧ t.busy = false ∧
      t.session = .openWrite :=
  ⟨rfl, ⟨_, rfl, by decide, by decide⟩, ⟨_, rfl, by decide, by decide⟩, ⟨_, rfl, by decide, by decide⟩⟩

/-- The transport keeps a request of each kind waiting that can be kept waiting; a busy framer goes on waiting. -/
theorem test_witness_AcceptanceLatchesTheRequest :
    ready.cfg.Valid ∧ Instr.wellFormed (.send 0x36 [0x48]) = true ∧ ready.busy = false ∧
    (∃ t, exec .initialise { State.reset with busScript := [.pending] } = .next t ∧ t.busy = true) ∧
    (∃ t, exec .cleanup { ready with busScript := [.pending] } = .next t ∧ t.busy = true) ∧
    (∃ t, exec (.sendBare 0x29) { ready with txScript := [.pending] } = .next t ∧ t.busy = true) ∧
    (∃ t, exec (.send 0x36 [0x48]) { ready with txScript := [.pending] } = .next t ∧ t.busy = true) ∧
    (∃ t, exec (.setWindow .read 5 7 5 7) { ready with txScript := [.pending] } = .next t ∧ t.busy = true) ∧
    (∃ t, exec (.stream [1]) { opened with txScript := [.pending] } = .next t ∧ t.busy = true) ∧
    (∃ t, exec (.fillRect 318 0 5 1 0) { ready with txScript := [.pending] } = .next t ∧ t.busy = true) ∧
    ∃ t, step { waiting with txScript := [.pending] } = .next t ∧ t.busy = true :=
  ⟨by decide, by decide, rfl, ⟨_, rfl, by decide⟩, ⟨_, rfl, by decide⟩, ⟨_, rfl, by decide⟩, ⟨_, rfl, by decide⟩,
    ⟨_, rfl, by decide⟩, ⟨_, rfl, by decide⟩, ⟨_, rfl, by decide⟩, ⟨_, rfl, by decide⟩⟩

/-- One form of each kind, at the edge: one argument byte, one data byte, no width, refused. -/
theorem test_witness_FrameMemoryKeptByNonStoringRequests :
    ready.cfg.Valid ∧ ready.busy = false ∧ (0x36 : Byte) ≠ ready.cfg.opcRamwr ∧ ready.ctl.op ≠ .ramwr ∧
    (∃ t, exec (.send 0x36 [0x48]) ready = .next t) ∧ (∃ t, exec .cleanup ready = .next t) ∧
    ([0x48] : List Byte).length < 2 ∧ opened.cfg.Valid ∧ opened.busy = false ∧ opened.ctl.params = [] ∧
    (∃ t, exec (.stream [1]) opened = .next t) ∧ opened.session ≠ .closed ∧ ready.lstate ≠ .uninitialized ∧
    ready.session ≠ .openWrite ∧ ∃ t, exec (.fillRect 0 0 0 1 0) ready = .next t :=
  ⟨by decide, rfl, by decide, by decide, ⟨_, rfl⟩, ⟨_, rfl⟩, by decide, by decide, rfl, rfl, ⟨_, rfl⟩, by decide,
    by decide, by decide, ⟨_, rfl⟩⟩

set_option maxRecDepth 4000 in
/-- A bring-up that fails after the pulse, and one that fails before it. -/
theorem test_witness_BringupLeavesNoPixelKnown :
    State.reset.cfg.Valid ∧ State.reset.busy = false ∧ State.reset.lstate = .uninitialized ∧
    (∃ t, exec .initialise (withBus .ok (withTx [.err] State.reset)) = .next t ∧ t.lstate ≠ .uninitialized) ∧
    (∀ e ∈ State.reset.cfg.initTable, e.opc ≠ State.reset.cfg.opcRamwr) ∧
    ∃ t, exec .initialise (withBus .err State.reset) = .next t ∧ t.lstate = .uninitialized :=
  ⟨by decide, rfl, rfl, ⟨_, rfl, by decide⟩, by decide, ⟨_, rfl, by decide⟩⟩

/-- The window `(0,0)-(1,0)` has two pixels: the last one is in range, and address 4 lies outside both. -/
theorem test_witness_StreamStoresOnlyIntoNextPixels :
    opened.cfg.Valid ∧ opened.busy = false ∧ (∃ t, exec (.stream [1, 2, 3, 4]) opened = .next t) ∧
    opened.ctl.op = .ramwr ∧ opened.dc.level = true ∧
    opened.ctl.k + (([1, 2, 3, 4] : List Byte).length + 1) / 2 ≤ opened.ctl.columns * opened.ctl.rows ∧
    ∀ j, j < (([1, 2, 3, 4] : List Byte).length + 1) / 2 →
      4 ≠ pixelAddress (opened.ctl.order opened.cfg.scanOrder (opened.ctl.k + j)).1
        (opened.ctl.order opened.cfg.scanOrder (opened.ctl.k + j)).2 ∧
      4 ≠ pixelAddress (opened.ctl.order opened.cfg.scanOrder (opened.ctl.k + j)).1
        (opened.ctl.order opened.cfg.scanOrder (opened.ctl.k + j)).2 + 1 :=
  ⟨by decide, rfl, ⟨_, rfl⟩, rfl, rfl, by decide, by decide⟩

theorem test_witness_MemoryWriteSendStoresFromFirstPixel :
    ready.cfg.Valid ∧ ready.busy = false ∧ (∃ t, exec (.send ready.cfg.opcRamwr [1, 2]) ready = .next t) ∧
    ([1, 2] : List Byte).length / 2 ≤ ready.ctl.columns * ready.ctl.rows ∧
    ∀ j, j < ([1, 2] : List Byte).length / 2 →
      2 ≠ pixelAddress (ready.ctl.order ready.cfg.scanOrder j).1 (ready.ctl.order ready.cfg.scanOrder j).2 ∧
      2 ≠ pixelAddress (ready.ctl.order ready.cfg.scanOrder j).1 (ready.ctl.order ready.cfg.scanOrder j).2 + 1 :=
  ⟨by decide, rfl, ⟨_, rfl⟩, by decide, by decide⟩

theorem test_witness_StreamStoresThePixelAtTheCounter :
    opened.cfg.Valid ∧ opened.busy = false ∧ opened.session = .openWrite ∧
    (∃ t, exec (.stream [hi 0xF800, lo 0xF800]) (withOk [2] opened) = .next t ∧ t.busy = false ∧ t.status = .ok) ∧
    opened.ctl.op = .ramwr ∧ opened.ctl.params = [] ∧ opened.dc.level = true ∧ opened.cs.level = false ∧
    opened.ctl.k < opened.ctl.columns * opened.ctl.rows :=
  ⟨by decide, rfl, rfl, ⟨_, rfl, by decide, by decide⟩, rfl, rfl, rfl, rfl, by decide⟩

end Sys2Proof.Tests
end

section
/-! # Family 10: the state and its invariants

## Inversions: what a run, a request and a step can do, said once -/

namespace Sys2Proof.Machine

/-! ### How a failing step answers -/

@[simp] theorem State.abort_cfg (s : State) : s.abort.cfg = s.cfg := by
  unfold State.abort; dsimp only; split_ifs <;> rfl
@[simp] theorem State.abort_lstate (s : State) : s.abort.lstate = s.lstate := by
  unfold State.abort; dsimp only; split_ifs <;> rfl
@[simp] theorem State.abort_session (s : State) : s.abort.session = .closed := rfl
@[simp] theorem State.abort_status (s : State) : s.abort.status = .transportError := rfl
@[simp] theorem State.abort_busy (s : State) : s.abort.busy = false := rfl
@[simp] theorem State.abort_inputs (s : State) : s.abort.inputs = s.inputs := by
  unfold State.abort; dsimp only; split_ifs <;> rfl
@[simp] theorem State.abort_responses (s : State) :
    s.abort.responses = s.responses ++ [Status.transportError.byte] := by
  unfold State.abort; dsimp only; split_ifs <;> rfl
@[simp] theorem State.abort_cs_level (s : State) : s.abort.cs.level = true := by
  unfold State.abort; dsimp only; split_ifs with h
  · exact h
  · rfl

/-- Chip-select already released: the abort path touches neither the lines nor the trace. -/
theorem State.abort_released (s : State) (h : s.cs.level = true) :
    s.abort.trace = s.trace ∧ s.abort.wires = s.wires := by
  unfold State.abort; dsimp only; rw [if_pos h]; exact ⟨rfl, rfl⟩

/-- Chip-select asserted: the abort path writes it once. -/
theorem State.abort_asserted (s : State) (h : s.cs.level = false) :
    s.abort.trace = s.trace ++ [.line .cs true] ∧ s.abort.wires = s.wires.see (.line .cs true) := by
  unfold State.abort; dsimp only; rw [if_neg (by simp [h])]; exact ⟨rfl, rfl⟩

theorem Micro.onError_eq_abort (m : Micro) (s : State) (h : m.op ≠ .busClose) : m.onError s = s.abort := by
  obtain ⟨op, ws⟩ := m
  cases op with
  | busClose => exact absurd rfl h
  | mode p => rfl
  | line p v => rfl
  | tx src tmo => rfl
  | delay d => rfl
  | busSetup => rfl

theorem Micro.onError_busClose (m : Micro) (s : State) (h : m.op = .busClose) :
    m.onError s = (s.writeAll m.writes).respond .transportError := by
  unfold Micro.onError; rw [h]

theorem Micro.onError_cfg (m : Micro) (s : State) : (m.onError s).cfg = s.cfg := by
  by_cases h : m.op = .busClose
  · simp [m.onError_busClose s h, (s.writeAll_kept m.writes).cfg]
  · simp [m.onError_eq_abort s h]

theorem Micro.onError_busy (m : Micro) (s : State) : (m.onError s).busy = false := by
  by_cases h : m.op = .busClose
  · simp [m.onError_busClose s h]
  · simp [m.onError_eq_abort s h]

theorem Micro.onError_status (m : Micro) (s : State) : (m.onError s).status = .transportError := by
  by_cases h : m.op = .busClose
  · simp [m.onError_busClose s h]
  · simp [m.onError_eq_abort s h]

theorem Micro.onError_trace_grows (m : Micro) (s : State) : s.trace <+: (m.onError s).trace := by
  by_cases h : m.op = .busClose
  · simp [m.onError_busClose s h, (s.writeAll_kept m.writes).trace]
  · rw [m.onError_eq_abort s h]
    cases hc : s.cs.level with
    | true => simp [(s.abort_released hc).1]
    | false => simp [(s.abort_asserted hc).1]

/-! ### A run of steps -/

theorem Waits.cfg {s t : State} (h : Waits s t) : t.cfg = s.cfg := by obtain ⟨tx, bus, n, rfl⟩ := h.same; rfl
theorem Waits.busy {s t : State} (h : Waits s t) : t.busy = s.busy := by obtain ⟨tx, bus, n, rfl⟩ := h.same; rfl
theorem Waits.trace {s t : State} (h : Waits s t) : t.trace = s.trace := by obtain ⟨tx, bus, n, rfl⟩ := h.same; rfl

/-- What the state is once these steps have all completed. -/
structure Completed (ms : List Micro) (s u : State) : Prop where
  kept : KeptByRun s u
  view : u.view = s.view.afterAll ms
  upc : u.upc = s.upc + ms.length
  trace : ∃ es, u.trace = s.trace ++ es ∧ es.length = ms.length
  txScript : ∀ r, r ∈ u.txScript → r ∈ s.txScript
  busScript : ∀ r, r ∈ u.busScript → r ∈ s.busScript

theorem Completed.nil (s : State) : Completed [] s s :=
  ⟨.refl s, rfl, rfl, ⟨[], by simp⟩, fun _ h => h, fun _ h => h⟩

theorem Completed.cons {m : Micro} {ms : List Micro} {s t u : State} (h : Stepped m s t) (k : Completed ms t u) :
    Completed (m :: ms) s u where
  kept := h.kept.trans k.kept
  view := by rw [k.view, h.view]; rfl
  upc := by rw [k.upc, h.upc, List.length_cons]; omega
  trace := by
    obtain ⟨e, -, he⟩ := h.trace
    obtain ⟨es, hes, hl⟩ := k.trace
    exact ⟨e :: es, by simp [hes, he], by simp [hl]⟩
  txScript := fun r hr => h.txScript r (k.txScript r hr)
  busScript := fun r hr => h.busScript r (k.busScript r hr)

theorem Completed.trace_grows {ms : List Micro} {s u : State} (h : Completed ms s u) : s.trace <+: u.trace := by
  obtain ⟨es, hes, -⟩ := h.trace
  exact ⟨es, hes.symm⟩

/-- How a run of steps can leave the request: answered `OK` after the last step, answered by the step that failed, or
waiting at the step whose call is not answered yet. -/
inductive RunCase (ms : List Micro) (s t : State) : Prop
  | answered (u : State) (h : Completed ms s u) (ht : t = u.respond .ok)
  | failed (pre : List Micro) (m : Micro) (post : List Micro) (v u : State) (hms : ms = pre ++ m :: post)
      (h : Completed pre s v) (r : Ran m.op v u) (hc : m.op.canRaise = true) (ht : t = m.onError u)
  | waiting (pre : List Micro) (m : Micro) (post : List Micro) (v : State) (hms : ms = pre ++ m :: post)
      (h : Completed pre s v) (w : Waits v t)

/-- A completed step before a run. -/
theorem RunCase.cons {m : Micro} {ms : List Micro} {s u t : State} (h : Stepped m s u) (k : RunCase ms u t) :
    RunCase (m :: ms) s t := by
  cases k with
  | answered v hv ht => exact .answered v (.cons h hv) ht
  | failed pre n post v w hms hv r hc ht => exact .failed (m :: pre) n post v w (by simp [hms]) (.cons h hv) r hc ht
  | waiting pre n post v hms hv w => exact .waiting (m :: pre) n post v (by simp [hms]) (.cons h hv) w

theorem runMicros_cases (ms : List Micro) (s : State) : RunCase ms s (runMicros ms s) := by
  induction ms generalizing s with
  | nil => exact .answered s (.nil s) rfl
  | cons m ms ih =>
    have e : runMicros (m :: ms) s = ((m.perform s).andThen (runSeq ms)).finish := by rw [runMicros, runSeq_cons]
    rw [e]
    rcases m.perform_cases s with ⟨u, hu, st⟩ | ⟨u, hu, r, c⟩ | ⟨u, hu, w⟩
    · rw [hu]; exact .cons st (ih u)
    · rw [hu]; exact .failed [] m ms s u rfl (.nil s) r c rfl
    · rw [hu]; exact .waiting [] m ms s rfl (.nil s) w

theorem runMicros_cfg (ms : List Micro) (s : State) : (runMicros ms s).cfg = s.cfg := by
  cases runMicros_cases ms s with
  | answered u h ht => rw [ht]; exact h.kept.cfg
  | failed pre m post v u hms h r hc ht => rw [ht, m.onError_cfg, r.cfg, h.kept.cfg]
  | waiting pre m post v hms h w => rw [w.cfg, h.kept.cfg]

theorem runMicros_trace_grows (ms : List Micro) (s : State) : s.trace <+: (runMicros ms s).trace := by
  cases runMicros_cases ms s with
  | answered u h ht => rw [ht]; exact h.trace_grows
  | failed pre m post v u hms h r hc ht =>
    obtain ⟨e, -, he⟩ := r.trace
    have hu : v.trace <+: u.trace := ⟨[e], he.symm⟩
    rw [ht]
    exact h.trace_grows.trans (hu.trans (m.onError_trace_grows u))
  | waiting pre m post v hms h w => rw [w.trace]; exact h.trace_grows

/-- A running request never turns into a refusal. -/
theorem runMicros_status (ms : List Micro) (s : State) (hb : s.busy = true) (ht : (runMicros ms s).busy = false) :
    (runMicros ms s).status ≠ .preconditionViolation := by
  cases runMicros_cases ms s with
  | answered u h e => rw [e]; simp
  | failed pre m post v u hms h r hc e => rw [e, m.onError_status]; simp
  | waiting pre m post v hms h w =>
    rw [w.busy, h.kept.busy, hb] at ht
    cases ht

/-! ### A request -/

/-- What a request can do: run its micro-program from the accepted state, take the refusal path, or answer `OK` as a
FILL_RECT with nothing to draw. -/
inductive ExecCase (i : Instr) (s t : State) : Prop
  | ran (lat : Latches) (buf : List Byte) (ms : List Micro) (ha : s.accepted i = some (s.accept lat buf))
      (hp : microProgram s.cfg lat = some ms) (ht : t = runMicros ms (s.accept lat buf))
  | refused (ht : t = s.refuse)
  | nothingToDraw (ht : t = s.answer .ok)

theorem exec_cases {i : Instr} {s t : State} (h : exec i s = .next t) : ExecCase i s t := by
  cases ha : s.accepted i with
  | some a =>
    obtain ⟨lat, buf, ms, rfl, hp, he⟩ := exec_accepted s a i ha
    rw [he] at h
    exact .ran lat buf ms ha hp (by cases h; rfl)
  | none =>
    rcases exec_not_accepted s i ha with he | ⟨x, y, w, k, color, -, -, he⟩
    · rw [he] at h
      exact .refused (by cases h; rfl)
    · rw [he] at h
      exact .nothingToDraw (by cases h; rfl)

theorem exec_next (i : Instr) (s : State) : ∃ t, exec i s = .next t := by
  cases i <;> exact ⟨_, rfl⟩

theorem exec_cfg {i : Instr} {s t : State} (h : exec i s = .next t) : t.cfg = s.cfg := by
  cases exec_cases h with
  | ran lat buf ms ha hp ht => rw [ht, runMicros_cfg, State.accept_cfg]
  | refused ht => rw [ht, State.refuse_cfg]
  | nothingToDraw ht => rw [ht, State.answer_cfg]

theorem exec_trace_grows {i : Instr} {s t : State} (h : exec i s = .next t) : s.trace <+: t.trace := by
  cases exec_cases h with
  | ran lat buf ms ha hp ht => rw [ht]; exact runMicros_trace_grows ms (s.accept lat buf)
  | refused ht => rw [ht, State.refuse_trace]
  | nothingToDraw ht => rw [ht, State.answer_trace]

/-! ### A step of the machine -/

/-- The state once the packet at the port has been taken: the rest of the inputs stays. -/
def State.withInputs (rest : List Input) (s : State) : State := { s with inputs := rest }

@[simp] theorem State.withInputs_cfg (rest : List Input) (s : State) : (s.withInputs rest).cfg = s.cfg := rfl
@[simp] theorem State.withInputs_busy (rest : List Input) (s : State) : (s.withInputs rest).busy = s.busy := rfl
@[simp] theorem State.withInputs_session (rest : List Input) (s : State) :
    (s.withInputs rest).session = s.session := rfl
@[simp] theorem State.withInputs_trace (rest : List Input) (s : State) : (s.withInputs rest).trace = s.trace := rfl

theorem step_of_ownReset {s : State} {rest : List Input} (hi : s.inputs = .ownReset :: rest) :
    step s = .next (s.withInputs rest).ownReset := by
  simp [step, State.nextAction, hi, State.withInputs]

theorem step_of_busy {s : State} (hb : s.busy = true) (hno : ∀ rest, s.inputs ≠ .ownReset :: rest) :
    step s = s.resume := by
  unfold step State.nextAction
  match hi : s.inputs with
  | [] => simp [hb]
  | .packet p :: rest => simp [hb]
  | .ownReset :: rest => exact absurd hi (hno rest)

theorem step_of_idle {s : State} (hb : s.busy = false) (hi : s.inputs = []) : step s = .next s := by
  simp [step, State.nextAction, hi, hb]

theorem step_of_decoded {s : State} {p : List Byte} {rest : List Input} {i : Instr} (hb : s.busy = false)
    (hi : s.inputs = .packet p :: rest) (hd : decode p = .ok i) : step s = exec i (s.withInputs rest) := by
  simp [step, State.nextAction, hi, hb, hd, State.withInputs]

theorem step_of_undecodable {s : State} {p : List Byte} {rest : List Input} {e : DecodeError} (hb : s.busy = false)
    (hi : s.inputs = .packet p :: rest) (hd : decode p = .error e) : step s = .next (s.withInputs rest).refuse := by
  simp [step, State.nextAction, hi, hb, hd, State.withInputs]

theorem resume_of_program {s : State} {ms : List Micro} (hp : microProgram s.cfg s.lat = some ms)
    (hu : s.upc ≤ ms.length) : s.resume = .next (runMicros (ms.drop s.upc) s) := by
  simp [State.resume, hp, Nat.not_lt.2 hu]

theorem resume_cases {s t : State} (h : s.resume = .next t) :
    ∃ ms, microProgram s.cfg s.lat = some ms ∧ s.upc ≤ ms.length ∧ t = runMicros (ms.drop s.upc) s := by
  unfold State.resume at h
  cases hp : microProgram s.cfg s.lat with
  | none => rw [hp] at h; cases h
  | some ms =>
    rw [hp] at h
    dsimp only at h
    split_ifs at h with hu
    exact ⟨ms, rfl, by omega, by cases h; rfl⟩

/-- What a step can do (R80, R81, R240): the own reset strikes, a running request goes on, an idle framer waits, a packet
is executed, or a packet does not decode and is refused. -/
inductive StepCase (s t : State) : Prop
  | ownReset (rest : List Input) (hi : s.inputs = .ownReset :: rest) (ht : t = (s.withInputs rest).ownReset)
  | resumed (ms : List Micro) (hb : s.busy = true) (hno : ∀ rest, s.inputs ≠ .ownReset :: rest)
      (hp : microProgram s.cfg s.lat = some ms) (hu : s.upc ≤ ms.length) (ht : t = runMicros (ms.drop s.upc) s)
  | waited (hb : s.busy = false) (hi : s.inputs = []) (ht : t = s)
  | executed (p : List Byte) (rest : List Input) (i : Instr) (hb : s.busy = false) (hi : s.inputs = .packet p :: rest)
      (hd : decode p = .ok i) (he : exec i (s.withInputs rest) = .next t)
  | undecodable (p : List Byte) (rest : List Input) (e : DecodeError) (hb : s.busy = false)
      (hi : s.inputs = .packet p :: rest) (hd : decode p = .error e) (ht : t = (s.withInputs rest).refuse)

theorem step_cases {s t : State} (h : step s = .next t) : StepCase s t := by
  match hi : s.inputs, hb : s.busy with
  | .ownReset :: rest, _ =>
    rw [step_of_ownReset hi] at h
    exact .ownReset rest hi (by cases h; rfl)
  | [], true =>
    have hno : ∀ rest, s.inputs ≠ .ownReset :: rest := by simp [hi]
    obtain ⟨ms, hp, hu, ht⟩ := resume_cases (step_of_busy hb hno ▸ h)
    exact .resumed ms hb hno hp hu ht
  | .packet p :: rest, true =>
    have hno : ∀ rest, s.inputs ≠ .ownReset :: rest := by simp [hi]
    obtain ⟨ms, hp, hu, ht⟩ := resume_cases (step_of_busy hb hno ▸ h)
    exact .resumed ms hb hno hp hu ht
  | [], false =>
    rw [step_of_idle hb hi] at h
    exact .waited hb hi (by cases h; rfl)
  | .packet p :: rest, false =>
    cases hd : decode p with
    | ok i => exact .executed p rest i hb hi hd (step_of_decoded hb hi hd ▸ h)
    | error e =>
      rw [step_of_undecodable hb hi hd] at h
      exact .undecodable p rest e hb hi hd (by cases h; rfl)

/-- Settles O43: every arm of `exec` answers a next state, whatever the scripts hold. -/
theorem everyRequestHasANextState : Obligations.EveryRequestHasANextState := by
  intro s i tx bus
  obtain ⟨t, ht⟩ := exec_next i s
  obtain ⟨u, hu⟩ := exec_next i { s with txScript := tx, busScript := bus }
  exact ⟨t, u, ht, hu⟩

/-- Settles O45, case by case over what a step can do. -/
theorem parametersNeverChange : Obligations.ParametersNeverChange := by
  intro s t h
  cases step_cases h with
  | ownReset rest hi ht => rw [ht, State.ownReset_cfg, State.withInputs_cfg]
  | resumed ms hb hno hp hu ht => rw [ht, runMicros_cfg]
  | waited hb hi ht => rw [ht]
  | executed p rest i hb hi hd he => rw [exec_cfg he, State.withInputs_cfg]
  | undecodable p rest e hb hi hd ht => rw [ht, State.refuse_cfg, State.withInputs_cfg]

/-- Settles O46: every step but the own reset's only appends events. -/
theorem traceOnlyGrows : Obligations.TraceOnlyGrows := by
  intro s t h hno
  cases step_cases h with
  | ownReset rest hi ht => exact absurd hi (hno rest)
  | resumed ms hb hno hp hu ht => rw [ht]; exact runMicros_trace_grows _ s
  | waited hb hi ht => rw [ht]
  | executed p rest i hb hi hd he => simpa using exec_trace_grows he
  | undecodable p rest e hb hi hd ht => rw [ht, State.refuse_trace, State.withInputs_trace]

end Sys2Proof.Machine
end

section
/-! ## The framer never reads the controller (R37) -/

namespace Sys2Proof.Machine

/-- The two states differ at most in the controller. -/
def SameFramer (s u : State) : Prop := ∃ d, u = { s with ctl := d }

theorem SameFramer.nextTx {s u : State} (h : SameFramer s u) :
    u.nextTx.1 = s.nextTx.1 ∧ SameFramer s.nextTx.2 u.nextTx.2 := by
  obtain ⟨d, rfl⟩ := h
  unfold State.nextTx
  cases hx : s.txScript with
  | nil => exact ⟨rfl, d, rfl⟩
  | cons r rest => exact ⟨rfl, d, rfl⟩

theorem SameFramer.nextBus {s u : State} (h : SameFramer s u) :
    u.nextBus.1 = s.nextBus.1 ∧ SameFramer s.nextBus.2 u.nextBus.2 := by
  obtain ⟨d, rfl⟩ := h
  unfold State.nextBus
  cases hx : s.busScript with
  | nil => exact ⟨rfl, d, rfl⟩
  | cons r rest => exact ⟨rfl, d, rfl⟩

theorem SameFramer.read {s u : State} (h : SameFramer s u) (src : TxSource) : src.read u = src.read s := by
  obtain ⟨d, rfl⟩ := h
  cases src <;> rfl

theorem SameFramer.line {s u : State} (h : SameFramer s u) (p : Line) (v : Level) :
    SameFramer (s.line p v) (u.line p v) := by
  obtain ⟨d, rfl⟩ := h
  cases p <;> cases v <;> exact ⟨_, rfl⟩

theorem SameFramer.write {s u : State} (h : SameFramer s u) (w : RegWrite) : SameFramer (s.write w) (u.write w) := by
  obtain ⟨d, rfl⟩ := h
  cases w <;> exact ⟨d, rfl⟩

theorem SameFramer.writeAll {s u : State} (h : SameFramer s u) (ws : List RegWrite) :
    SameFramer (s.writeAll ws) (u.writeAll ws) := by
  induction ws generalizing s u with
  | nil => exact h
  | cons w ws ih => exact ih (h.write w)

theorem SameFramer.respond {s u : State} (h : SameFramer s u) (st : Status) :
    SameFramer (s.respond st) (u.respond st) := by
  obtain ⟨d, rfl⟩ := h
  exact ⟨d, rfl⟩

theorem SameFramer.abort {s u : State} (h : SameFramer s u) : SameFramer s.abort u.abort := by
  have hl : SameFramer (if s.cs.level then s else s.line .cs true) (if u.cs.level then u else u.line .cs true) := by
    have hcs : u.cs = s.cs := by obtain ⟨d, rfl⟩ := h; rfl
    rw [hcs]
    split_ifs
    · exact h
    · exact h.line .cs true
  exact (hl.write (.session .closed)).respond .transportError

theorem SameFramer.onError {s u : State} (h : SameFramer s u) (m : Micro) :
    SameFramer (m.onError s) (m.onError u) := by
  by_cases hm : m.op = .busClose
  · rw [m.onError_busClose s hm, m.onError_busClose u hm]
    exact (h.writeAll m.writes).respond .transportError
  · rw [m.onError_eq_abort s hm, m.onError_eq_abort u hm]
    exact h.abort

/-- The two micro-operations end the same way, in states that differ at most in the controller. -/
inductive OpResult.Same : OpResult → OpResult → Prop
  | completed {s u : State} (h : SameFramer s u) : OpResult.Same (.completed s) (.completed u)
  | raised {s u : State} (h : SameFramer s u) : OpResult.Same (.raised s) (.raised u)
  | blocked {s u : State} (h : SameFramer s u) : OpResult.Same (.blocked s) (.blocked u)

theorem SameFramer.tx {s u : State} (h : SameFramer s u) (bytes : List Byte) (tmo : Timeout) :
    (s.tx bytes tmo).Same (u.tx bytes tmo) := by
  have hn := h.nextTx
  unfold State.tx
  generalize s.nextTx = x, u.nextTx = y at hn
  obtain ⟨r, s'⟩ := x
  obtain ⟨r', u'⟩ := y
  obtain ⟨rfl, d, rfl⟩ : r' = r ∧ SameFramer s' u' := hn
  cases r' with
  | pending => exact .blocked ⟨d, rfl⟩
  | answer a =>
    dsimp only
    split_ifs
    · exact .completed ⟨_, rfl⟩
    · exact .raised ⟨_, rfl⟩

theorem SameFramer.busSetup {s u : State} (h : SameFramer s u) : s.busSetup.Same u.busSetup := by
  have hn := h.nextBus
  unfold State.busSetup
  generalize s.nextBus = x, u.nextBus = y at hn
  obtain ⟨r, s'⟩ := x
  obtain ⟨r', u'⟩ := y
  obtain ⟨rfl, d, rfl⟩ : r' = r ∧ SameFramer s' u' := hn
  cases r' with
  | pending => exact .blocked ⟨d, rfl⟩
  | answer a =>
    cases a with
    | ok => exact .completed ⟨d, rfl⟩
    | err => exact .raised ⟨d, rfl⟩

theorem SameFramer.busClose {s u : State} (h : SameFramer s u) : s.busClose.Same u.busClose := by
  have hn := h.nextBus
  unfold State.busClose
  generalize s.nextBus = x, u.nextBus = y at hn
  obtain ⟨r, s'⟩ := x
  obtain ⟨r', u'⟩ := y
  obtain ⟨rfl, d, rfl⟩ : r' = r ∧ SameFramer s' u' := hn
  cases r' with
  | pending => exact .blocked ⟨d, rfl⟩
  | answer a =>
    cases a with
    | ok => exact .completed ⟨d, rfl⟩
    | err => exact .raised ⟨d, rfl⟩

theorem SameFramer.run {s u : State} (h : SameFramer s u) (op : MicroOp) : (op.run s).Same (op.run u) := by
  cases op with
  | mode p =>
    obtain ⟨d, rfl⟩ := h
    cases p <;> exact .completed ⟨d, rfl⟩
  | line p v => exact .completed (h.line p v)
  | tx src tmo =>
    simp only [MicroOp.run, h.read src]
    exact h.tx _ tmo
  | delay t =>
    obtain ⟨d, rfl⟩ := h
    exact .completed ⟨d, rfl⟩
  | busSetup => exact h.busSetup
  | busClose => exact h.busClose

/-- The two runs have come equally far, in states that differ at most in the controller. -/
inductive Progress.Same : Progress → Progress → Prop
  | running {s u : State} (h : SameFramer s u) : Progress.Same (.running s) (.running u)
  | ended {s u : State} (h : SameFramer s u) : Progress.Same (.ended s) (.ended u)
  | blocked {s u : State} (h : SameFramer s u) : Progress.Same (.blocked s) (.blocked u)

theorem SameFramer.perform {s u : State} (h : SameFramer s u) (m : Micro) : (m.perform s).Same (m.perform u) := by
  have hr := h.run m.op
  unfold Micro.perform
  generalize m.op.run s = x, m.op.run u = y at hr
  cases hr with
  | completed h =>
    obtain ⟨d, hd⟩ := h.writeAll m.writes
    exact .running ⟨d, congrArg State.advance hd⟩
  | raised h => exact .ended (h.onError m)
  | blocked h => exact .blocked h

theorem SameFramer.runSeq {s u : State} (h : SameFramer s u) (ms : List Micro) :
    (runSeq ms s).Same (runSeq ms u) := by
  induction ms generalizing s u with
  | nil => exact .running h
  | cons m ms ih =>
    rw [runSeq_cons, runSeq_cons]
    have hp := h.perform m
    generalize m.perform s = x, m.perform u = y at hp
    cases hp with
    | running h => exact ih h
    | ended h => exact .ended h
    | blocked h => exact .blocked h

theorem SameFramer.runMicros {s u : State} (h : SameFramer s u) (ms : List Micro) :
    SameFramer (runMicros ms s) (runMicros ms u) := by
  have hr := h.runSeq ms
  unfold Machine.runMicros
  generalize Machine.runSeq ms s = x, Machine.runSeq ms u = y at hr
  cases hr with
  | running h => exact h.respond .ok
  | ended h => exact h
  | blocked h => exact h

theorem SameFramer.gate {s u act act' : State} (h : SameFramer s u) (ha : SameFramer act act') (i : Instr) :
    SameFramer (s.gate i act) (u.gate i act') := by
  obtain ⟨d, rfl⟩ := h
  have hg : (requestAdmitted i { s with ctl := d } && operandsLegal s.cfg i) =
      (requestAdmitted i s && operandsLegal s.cfg i) := by cases i <;> rfl
  simp only [State.gate, hg]
  split_ifs
  · exact ha
  · exact ⟨d, rfl⟩

theorem SameFramer.accept {s u : State} (h : SameFramer s u) (lat : Latches) (buf : List Byte) :
    SameFramer (s.accept lat buf) (u.accept lat buf) := by
  obtain ⟨d, rfl⟩ := h
  exact ⟨d, rfl⟩

theorem SameFramer.fillBody {s u : State} (h : SameFramer s u) (x y w k color : Word16) :
    SameFramer (fillBody x y w k color s) (fillBody x y w k color u) := by
  have hu := h
  obtain ⟨d, rfl⟩ := hu
  unfold Machine.fillBody
  dsimp only
  cases clip s.cfg x y w k with
  | none => exact ⟨d, rfl⟩
  | some c => exact (h.accept _ _).runMicros _

theorem SameFramer.exec {s u : State} (h : SameFramer s u) (i : Instr) :
    ∃ t v, exec i s = .next t ∧ exec i u = .next v ∧ SameFramer t v := by
  have hu := h
  obtain ⟨d, rfl⟩ := hu
  cases i with
  | initialise => exact ⟨_, _, rfl, rfl, h.gate ((h.accept _ _).runMicros _) _⟩
  | cleanup => exact ⟨_, _, rfl, rfl, h.gate ((h.accept _ _).runMicros _) _⟩
  | sendBare cmd => exact ⟨_, _, rfl, rfl, h.gate ((h.accept _ _).runMicros _) _⟩
  | send cmd args => exact ⟨_, _, rfl, rfl, h.gate ((h.accept _ _).runMicros _) _⟩
  | setWindow dir x1 y1 x2 y2 => exact ⟨_, _, rfl, rfl, h.gate ((h.accept _ _).runMicros _) _⟩
  | stream data => exact ⟨_, _, rfl, rfl, h.gate ((h.accept _ _).runMicros _) _⟩
  | endSession => exact ⟨_, _, rfl, rfl, h.gate ((h.accept _ _).runMicros _) _⟩
  | fillRect x y w k color => exact ⟨_, _, rfl, rfl, h.gate (h.fillBody x y w k color) _⟩

theorem SameFramer.withInputs {s u : State} (h : SameFramer s u) (rest : List Input) :
    SameFramer (s.withInputs rest) (u.withInputs rest) := by
  obtain ⟨d, rfl⟩ := h
  exact ⟨d, rfl⟩

theorem SameFramer.step {s u t : State} (h : SameFramer s u) (ht : step s = .next t) :
    ∃ v, step u = .next v ∧ SameFramer t v := by
  have hi : u.inputs = s.inputs := by obtain ⟨d, rfl⟩ := h; rfl
  have hb : u.busy = s.busy := by obtain ⟨d, rfl⟩ := h; rfl
  cases step_cases ht with
  | ownReset rest hs e =>
    refine ⟨_, step_of_ownReset (hi.trans hs), ?_⟩
    obtain ⟨d, rfl⟩ := h
    exact ⟨_, by rw [e]; rfl⟩
  | resumed ms hs hno hp hu e =>
    have hr : u.resume = .next (Machine.runMicros (ms.drop s.upc) u) := by
      obtain ⟨d, rfl⟩ := h
      exact resume_of_program hp hu
    exact ⟨_, (step_of_busy (hb.trans hs) (hi ▸ hno)).trans hr, e ▸ h.runMicros _⟩
  | waited hs hn e => exact ⟨u, step_of_idle (hb.trans hs) (hi.trans hn), e ▸ h⟩
  | executed p rest i hs hn hd he =>
    obtain ⟨t', v, ht', hv, hsame⟩ := (h.withInputs rest).exec i
    rw [he] at ht'
    cases ht'
    exact ⟨v, (step_of_decoded (hb.trans hs) (hi.trans hn) hd).trans hv, hsame⟩
  | undecodable p rest x hs hn hd e =>
    refine ⟨_, step_of_undecodable (hb.trans hs) (hi.trans hn) hd, ?_⟩
    obtain ⟨d, rfl⟩ := h
    exact ⟨d, by rw [e]; rfl⟩

/-- Settles O44: two states that differ only in the controller step alike (`SameFramer.step`). -/
theorem framerIgnoresController : Obligations.FramerIgnoresController := by
  intro s t c h
  obtain ⟨v, hv, d, hd⟩ := SameFramer.step (u := { s with ctl := c }) ⟨c, rfl⟩ h
  exact ⟨d, hd ▸ hv⟩

end Sys2Proof.Machine
end

section
/-! ## Every micro-program is safe from its acceptance on (R31, R33 to R36, R190) -/

namespace Sys2Proof.Machine

/-! ### Safe lists and their ends -/

theorem View.safeRun_of_stepsSafe (ms : List Micro) (v : View) (hs : View.stepsSafe ms v)
    (he : (v.afterAll ms).atRest) : View.safeRun ms v := by
  simpa using View.safeRun_append ms [] v hs he

theorem View.session_closed_of_atRest {v : View} (h : v.atRest) (hl : v.lstate ≠ .active) : v.session = .closed := by
  obtain ⟨-, hopen, -⟩ := h
  by_contra hs
  obtain ⟨-, -, hactive⟩ := hopen hs
  exact hl hactive

/-- A session open between requests: the panel is active, its lines driven and out of reset. -/
theorem View.active_of_open {v : View} (h : v.atRest) (hs : v.session ≠ .closed) :
    v.lstate = .active ∧ v.linesDriven ∧ v.rst.level = true := by
  obtain ⟨-, hopen, hdriven, -⟩ := h
  obtain ⟨-, -, hl⟩ := hopen hs
  exact ⟨hl, hdriven (by simp [hl])⟩

/-- In an open session between requests the bus is as a transfer needs it, with `DC` high. -/
theorem View.transferReady_of_open {v : View} (h : v.atRest) (hs : v.session ≠ .closed) :
    v.transferReady ∧ v.dc.level = true := by
  obtain ⟨hl, ⟨ocs, odc, orst, -⟩, hrst⟩ := View.active_of_open h hs
  obtain ⟨-, hopen, -⟩ := h
  obtain ⟨hcs, hdc, -⟩ := hopen hs
  exact ⟨⟨ocs, odc, orst, hcs, hrst, .inr (.inr hl)⟩, hdc⟩

/-- The abort path from a state whose lines are driven and out of reset ends at rest. -/
theorem View.aborted_atRest {v : View} (h : v.linesDriven) (hr : v.rst.level = true)
    (hl : v.lstate ≠ .busConfigured) : v.aborted.atRest := by
  obtain ⟨ocs, odc, orst, wcs, wdc, wrst⟩ := h
  obtain ⟨aoe, alevel, awritten⟩ :
      v.aborted.cs.oe = true ∧ v.aborted.cs.level = true ∧ v.aborted.cs.written = true := by
    unfold View.aborted
    dsimp only
    split_ifs with hc
    · exact ⟨ocs, hc, wcs⟩
    · exact ⟨ocs, rfl, rfl⟩
  refine ⟨fun _ => ⟨fun _ => rfl, fun _ => alevel⟩, fun hs => absurd rfl hs, fun _ => ⟨?_, hr⟩, hl,
    fun _ => awritten, fun _ => wdc, fun _ => wrst⟩
  exact ⟨aoe, odc, orst, awritten, wdc, wrst⟩

/-! ### The bring-up -/

theorem View.table_safe (table : List InitEntry) (v : View) (h : v.ready)
    (ht : ∀ e ∈ table, e.args.length ≤ 65535) :
    View.stepsSafe (table.flatMap entryFrame) v ∧ (v.afterAll (table.flatMap entryFrame)).ready := by
  induction table generalizing v with
  | nil => exact ⟨trivial, h⟩
  | cons e es ih =>
    have hargs := ht e (by simp)
    have hframe : View.stepsSafe (entryFrame e) v := by
      refine View.frame_safe e.opc _ v h ?_
      by_cases he : e.args = []
      · exact .inl (if_pos he)
      · rw [if_neg he]
        exact .inr ⟨List.length_pos_of_ne_nil he, show e.args.length ≤ 131070 by omega⟩
    obtain ⟨hsafe, hready⟩ := ih (v.afterAll (entryFrame e)) (View.frame_ready _ _ v h) fun x hx => ht x (by simp [hx])
    rw [List.flatMap_cons, View.afterAll_append]
    exact ⟨View.stepsSafe_append _ _ v hframe hsafe, hready⟩

/-- No step of the list is a `bus_close`. -/
def NoBusClose (ms : List Micro) : Prop := ∀ m ∈ ms, m.op ≠ .busClose

theorem NoBusClose.append {xs ys : List Micro} (hx : NoBusClose xs) (hy : NoBusClose ys) : NoBusClose (xs ++ ys) :=
  fun m hm => (List.mem_append.1 hm).elim (hx m) (hy m)

theorem NoBusClose.thenWrite {ms : List Micro} (h : NoBusClose ms) (w : RegWrite) : NoBusClose (thenWrite w ms) := by
  rcases List.eq_nil_or_concat' ms with rfl | ⟨zs, m, rfl⟩
  · exact h
  · rw [thenWrite_append_singleton]
    refine NoBusClose.append (fun x hx => h x (by simp [hx])) fun x hx => ?_
    rw [List.mem_singleton.1 hx]
    exact h m (by simp)

theorem frame_noBusClose (cmd : Byte) (args : Option TxSource) : NoBusClose (frame cmd args) := by
  cases args <;> simp [NoBusClose, frame, frameArgs, plain]

theorem bringupReset_noBusClose : NoBusClose bringupReset := by simp [NoBusClose, bringupReset, plain]

theorem bringupTable_noBusClose (c : Config) : NoBusClose (bringupTable c) := by
  intro m hm
  obtain ⟨e, -, he⟩ := List.mem_flatMap.1 hm
  exact frame_noBusClose _ _ m he

theorem bringupDisplay_noBusClose (c : Config) : NoBusClose (bringupDisplay c) := by
  simp [NoBusClose, bringupDisplay, frame, frameArgs, plain]

/-- Steps (a) and (b): the lines are driven before they are written, and chip-select is high at the setup. -/
theorem View.bringupStart_safe (v : View) (hl : v.lstate = .uninitialized) :
    View.stepsSafe (bringupLines ++ bringupBus) v := by
  simp [bringupLines, bringupBus, plain, thenWrite, View.stepsSafe, View.safeStep, View.after, View.afterOp,
    View.drives, View.aborted, View.atRest, LineReg.settled, hl]

/-- Step (c): the bus is ready after the pulse. -/
theorem View.bringupReset_safe (v : View) (h : v.linesDriven) (hs : v.session = .closed) :
    View.stepsSafe (thenWrite (.lstate .resetSettled) bringupReset) v ∧
      (v.afterAll (thenWrite (.lstate .resetSettled) bringupReset)).ready := by
  obtain ⟨ocs, odc, orst, wcs, wdc, wrst⟩ := h
  exact ⟨⟨orst, trivial, orst, trivial, trivial, trivial⟩, ⟨ocs, odc, orst, wcs, wdc, rfl⟩, rfl, .inl rfl, hs⟩

/-- Step (e): two frames and two delays. -/
theorem View.bringupDisplay_safe (c : Config) (v : View) (h : v.ready) : View.stepsSafe (bringupDisplay c) v := by
  unfold bringupDisplay
  refine View.stepsSafe_append _ _ v (View.stepsSafe_append _ _ v (View.stepsSafe_append _ _ v ?_ ⟨trivial, trivial⟩) ?_)
    ⟨trivial, trivial⟩
  · exact View.frame_safe _ _ v h (.inl rfl)
  · rw [View.afterAll_append]
    exact View.frame_safe _ _ _ (View.frame_ready c.opcSlpout none v h) (.inl rfl)

theorem View.initialise_safe (c : Config) (hc : c.Valid) (v : View) (h : v.atRest) (hl : v.lstate = .uninitialized) :
    View.safeRun (initialiseProgram c) v := by
  have hclosed : v.session = .closed := View.session_closed_of_atRest h (by simp [hl])
  obtain ⟨-, -, -, -, -, ⟨-, htable⟩, -⟩ := hc
  obtain ⟨hreset, hready⟩ := View.bringupReset_safe (v.afterAll (bringupLines ++ bringupBus))
    ⟨rfl, rfl, rfl, rfl, rfl, rfl⟩ hclosed
  obtain ⟨htab, htabReady⟩ := View.table_safe c.initTable _ hready fun e he => (htable e he).2
  have hne : thenWrite (.lstate .resetSettled) bringupReset ++ bringupTable c ≠ [] := by simp [bringupReset, thenWrite]
  refine View.safeRun_of_stepsSafe _ v ?_ ?_
  · refine View.stepsSafe_append _ _ v (View.stepsSafe_append _ _ v (View.bringupStart_safe v hl) ?_) ?_
    · exact View.stepsSafe_thenWrite _ _ _ (View.stepsSafe_append _ _ _ hreset htab)
        ((bringupReset_noBusClose.thenWrite _).append (bringupTable_noBusClose c))
    · refine View.stepsSafe_thenWrite _ _ _ (View.bringupDisplay_safe c _ ?_) (bringupDisplay_noBusClose c)
      rw [View.afterAll_append, View.afterAll_thenWrite _ _ _ hne, View.afterAll_append]
      obtain ⟨hd, hr, -, hs⟩ := htabReady
      exact ⟨hd, hr, .inr (.inl rfl), hs⟩
  · obtain ⟨-, -, -, hend⟩ := initialiseProgram_spec c v
    rw [hend]
    exact View.atRest_of_ready _ ⟨⟨rfl, rfl, rfl, rfl, rfl, rfl⟩, rfl, .inr (.inr rfl), hclosed⟩ rfl

/-! ### The other requests -/

theorem View.cleanup_safe (v : View) (h : v.atRest) (hs : v.session = .closed) : View.safeRun cleanupProgram v := by
  obtain ⟨hcs, -, -, -, scs, sdc, srst⟩ := h
  have he : (v.afterWrite (.lstate .uninitialized)).atRest :=
    ⟨hcs, fun hopen => absurd hs hopen, fun hl => absurd rfl hl, nofun, scs, sdc, srst⟩
  exact ⟨he, he⟩

theorem View.frame_run_safe (cmd : Byte) (args : Option TxSource) (v : View) (h : v.ready)
    (ha : args = none ∨ (1 ≤ (frameBytes v args).length ∧ (frameBytes v args).length ≤ 131070)) :
    View.safeRun (frame cmd args) v := by
  refine View.safeRun_of_stepsSafe _ v (View.frame_safe cmd args v h ha) ?_
  refine View.atRest_of_ready _ (View.frame_ready cmd args v h) ?_
  rw [View.afterAll_frame]

/-- SEND, when `ARGBUF` holds the argument bytes that `NARG` counts. -/
theorem View.send_safe (lat : Latches) (v : View) (h : v.ready) (hne : lat.narg ≠ 0 → v.argBytes ≠ [])
    (hle : v.argBytes.length ≤ 131070) : View.safeRun (sendProgram lat) v := by
  refine View.frame_run_safe _ _ v h ?_
  by_cases hn : lat.narg = 0
  · exact .inl (if_pos hn)
  · rw [if_neg hn]
    exact .inr ⟨List.length_pos_of_ne_nil (hne hn), hle⟩

theorem View.setWindow_safe (c : Config) (x1 y1 x2 y2 : Word16) (dir : Dir) (v : View) (h : v.ready)
    (hl : v.lstate = .active) : View.safeRun (window c x1 y1 x2 y2 dir) v := by
  refine View.safeRun_of_stepsSafe _ v (View.window_safe c x1 y1 x2 y2 dir [] v h).1 ?_
  rw [View.afterAll_window]
  obtain ⟨⟨ocs, odc, orst, -, -, wrst⟩, hr, -, -⟩ := h
  have hopen : Session.ofDir dir ≠ .closed := by cases dir <;> simp [Session.ofDir]
  exact ⟨fun _ => by simp [hopen], fun _ => ⟨rfl, rfl, hl⟩, fun _ => ⟨⟨ocs, odc, orst, rfl, rfl, wrst⟩, hr⟩,
    by simp [hl], fun _ => rfl, fun _ => rfl, fun _ => wrst⟩

theorem View.stream_safe (v : View) (h : v.atRest) (hs : v.session ≠ .closed) (hne : 1 ≤ v.argBytes.length)
    (hle : v.argBytes.length ≤ 131070) : View.safeRun streamProgram v := by
  obtain ⟨htr, hdc⟩ := View.transferReady_of_open h hs
  obtain ⟨hl, hd, hr⟩ := View.active_of_open h hs
  exact ⟨⟨htr, ⟨hne, hle, by simp [hdc]⟩, View.aborted_atRest hd hr (by simp [hl])⟩, h⟩

theorem View.endSession_safe (v : View) (h : v.atRest) (hs : v.session ≠ .closed) :
    View.safeRun endSessionProgram v := by
  obtain ⟨hl, ⟨ocs, odc, orst, -, wdc, wrst⟩, hr⟩ := View.active_of_open h hs
  exact ⟨ocs, View.atRest_of_ready _ ⟨⟨ocs, odc, orst, rfl, wdc, wrst⟩, hr, .inr (.inr hl), rfl⟩ rfl⟩

theorem View.fill_safe (c : Config) (lat : Latches) (v : View) (h : v.ready) (hl : v.lstate = .active)
    (hw : span lat.x1 lat.x2 ≤ 65535) : View.safeRun (fillProgram c lat) v := by
  have hwin := (View.window_safe c lat.x1 lat.y1 lat.x2 lat.y2 .write (rowBytes lat.x1 lat.x2 lat.color) v h).2
  obtain ⟨⟨ocs, odc, orst, -, -, wrst⟩, hr, hls, -⟩ := h
  refine View.safeRun_of_stepsSafe _ v ?_ ?_
  · refine View.stepsSafe_append _ _ v (View.stepsSafe_append _ _ v hwin ?_) ?_
    · have hlb : v.lstate ≠ .busConfigured := by simp [hl]
      have hrow : (rowBytes lat.x1 lat.x2 lat.color).length = 2 * span lat.x1 lat.x2 := length_rowBytes _ _ _
      have hpos : 1 ≤ span lat.x1 lat.x2 := Nat.le_add_left 1 _
      have hlen : 1 ≤ (rowBytes lat.x1 lat.x2 lat.color).length ∧
          (rowBytes lat.x1 lat.x2 lat.color).length ≤ 131070 := by omega
      exact View.rows_safe _ _ ⟨ocs, odc, orst, rfl, hr, hls⟩ rfl hlen
        (View.aborted_atRest ⟨ocs, odc, orst, rfl, rfl, wrst⟩ hr hlb)
    · rw [View.afterAll_append, View.afterAll_rows]
      exact ⟨ocs, trivial⟩
  · rw [View.afterAll_fillProgram]
    exact View.atRest_of_ready _ ⟨⟨ocs, odc, orst, rfl, rfl, wrst⟩, hr, hls, rfl⟩ rfl

/-! ### Acceptance -/

/-- The arguments of a SEND or STREAM that a packet can carry are read back whole from `ARGBUF`. -/
theorem take_narg (args : List Byte) (h : args.length ≤ 65535) :
    args.take (BitVec.ofNat 16 args.length).toNat = args := by
  rw [BitVec.toNat_ofNat, Nat.mod_eq_of_lt (by omega), List.take_length]

/-- A clipped rectangle is at most as wide as the panel. -/
theorem clipsTo.span_le {c : Config} (hd : c.DimsOk) {x y w h x2 y2 : Word16} (hc : clipsTo c x y w h x2 y2) :
    span x x2 ≤ 65535 := by
  obtain ⟨hw1, hw2, -, -⟩ := hd
  obtain ⟨hx, -, -, -, hx2, -⟩ := hc
  unfold span
  omega

/-- The micro-program of an accepted request is safe from the state acceptance leaves. -/
theorem accepted_program_safe {s a : State} {i : Instr} (h : s.inv) (hb : s.busy = false) (hw : i.wellFormed = true)
    (ha : s.accepted i = some a) :
    ∃ ms, microProgram a.cfg a.lat = some ms ∧ View.safeRun ms a.view := by
  obtain ⟨hc, -, hrest, -⟩ := h
  unfold State.accepted at ha
  split_ifs at ha with hg
  obtain ⟨hadm, hop⟩ := Bool.and_eq_true_iff.1 hg
  have rest (lat : Latches) (buf : List Byte) : (s.accept lat buf).view.atRest :=
    View.atRest_congr rfl rfl rfl rfl rfl (hrest hb)
  have ready (hm : s.commandMode = true) (lat : Latches) (buf : List Byte) :
      (s.accept lat buf).view.ready ∧ s.lstate = .active := by
    obtain ⟨hl, hs⟩ := (commandMode_iff s).1 hm
    exact ⟨View.ready_of_active _ (rest lat buf) hl hs, hl⟩
  cases i with
  | initialise =>
    cases ha
    have hl : s.lstate = .uninitialized := by simpa [requestAdmitted] using hadm
    exact ⟨_, rfl, View.initialise_safe _ hc _ (rest _ _) hl⟩
  | cleanup =>
    cases ha
    have hs : s.lstate ≠ .uninitialized ∧ s.session = .closed := by simpa [requestAdmitted] using hadm
    exact ⟨_, rfl, View.cleanup_safe _ (rest _ _) hs.2⟩
  | sendBare cmd =>
    cases ha
    exact ⟨_, rfl, View.frame_run_safe _ _ _ (ready hadm _ _).1 (.inl rfl)⟩
  | send cmd args =>
    cases ha
    have hlen : args.length ≤ 65535 := by simpa [Instr.wellFormed] using hw
    have harg : (s.accept (s.lat.ofSend cmd args) args).view.argBytes = args := take_narg args hlen
    refine ⟨_, rfl, View.send_safe _ _ (ready hadm _ _).1 (fun hn => ?_) (by rw [harg]; omega)⟩
    rw [harg]
    rintro rfl
    exact hn rfl
  | setWindow dir x1 y1 x2 y2 =>
    cases ha
    exact ⟨_, rfl, View.setWindow_safe _ _ _ _ _ _ _ (ready hadm _ _).1 (ready hadm s.lat s.argBuf).2⟩
  | stream data =>
    cases ha
    have hlen : data.length ≤ 65535 := by simpa [Instr.wellFormed] using hw
    have hpos : 1 ≤ data.length := by simpa [operandsLegal, dataPresent] using hop
    have harg : (s.accept (s.lat.ofStream data) data).view.argBytes = data := take_narg data hlen
    have hs : s.session = .openWrite := by simpa [requestAdmitted] using hadm
    have hopen : s.session ≠ .closed := by simp [hs]
    exact ⟨_, rfl, View.stream_safe _ (rest _ _) hopen (by rw [harg]; omega) (by rw [harg]; omega)⟩
  | endSession =>
    cases ha
    have hs : s.session ≠ .closed := by simpa [requestAdmitted] using hadm
    exact ⟨_, rfl, View.endSession_safe _ (rest _ _) hs⟩
  | fillRect x y w k color =>
    obtain ⟨⟨x2, y2⟩, hclip, rfl⟩ := Option.map_eq_some_iff.1 ha
    have hspan := ((clip_eq_some_iff s.cfg hc.1 x y w k x2 y2).1 hclip).span_le hc.1
    exact ⟨_, rfl, View.fill_safe _ _ _ (ready hadm _ _).1 (ready hadm s.lat s.argBuf).2 hspan⟩

theorem accepted_safe {s a : State} {i : Instr} {ms : List Micro} (h : s.inv) (hb : s.busy = false)
    (hw : i.wellFormed = true) (ha : s.accepted i = some a) (hp : microProgram a.cfg a.lat = some ms) :
    View.safeRun ms a.view := by
  obtain ⟨ms', hp', hsafe⟩ := accepted_program_safe h hb hw ha
  exact Option.some.inj (hp'.symm.trans hp) ▸ hsafe

/-- Acceptance establishes the invariant at `UPC = 0`. -/
theorem accepted_inv {s a : State} {i : Instr} (h : s.inv) (hb : s.busy = false) (hw : i.wellFormed = true)
    (ha : s.accepted i = some a) : a.inv ∧ a.busy = true ∧ a.upc = 0 := by
  obtain ⟨ms, hp, hsafe⟩ := accepted_program_safe h hb hw ha
  obtain ⟨lat, buf, -, rfl, -, -⟩ := exec_accepted s a i ha
  obtain ⟨hc, hf, -, -⟩ := h
  exact ⟨⟨hc, hf, nofun, fun _ => ⟨ms, hp, Nat.zero_le _, hsafe⟩⟩, rfl, rfl⟩

/-! ### Packets carry well-formed requests -/

theorem decodeZ_ok {opr : Byte} {j i : Instr} {ops : List Byte} (h : decodeZ opr j ops = .ok i) : i = j := by
  cases ops with
  | nil => cases h; rfl
  | cons b bs => cases h

theorem decodeC_wellFormed {ops : List Byte} {i : Instr} (h : decodeC ops = .ok i) : i.wellFormed = true := by
  unfold decodeC at h
  split at h <;> cases h
  rfl

theorem decodeCA_wellFormed {ops : List Byte} {i : Instr} (h : decodeCA ops = .ok i) : i.wellFormed = true := by
  unfold decodeCA at h
  split at h
  · next cmd n1 n0 args =>
    split_ifs at h with hl
    cases h
    have := (word16 n1 n0).isLt
    exact decide_eq_true (by omega)
  · cases h

theorem decodeW_wellFormed {ops : List Byte} {i : Instr} (h : decodeW ops = .ok i) : i.wellFormed = true := by
  unfold decodeW at h
  split at h
  · split at h <;> cases h
    rfl
  · cases h

theorem decodeS_wellFormed {ops : List Byte} {i : Instr} (h : decodeS ops = .ok i) : i.wellFormed = true := by
  unfold decodeS at h
  split at h
  · next n1 n0 data =>
    split_ifs at h with hl
    cases h
    have := (word16 n1 n0).isLt
    exact decide_eq_true (by omega)
  · cases h

theorem decodeF_wellFormed {ops : List Byte} {i : Instr} (h : decodeF ops = .ok i) : i.wellFormed = true := by
  unfold decodeF at h
  split at h <;> cases h
  rfl

/-- What the decoder accepts a packet can carry: `NARG` counts the bytes that follow it (R86, R88). -/
theorem decode_wellFormed {p : List Byte} {i : Instr} (h : decode p = .ok i) : i.wellFormed = true := by
  cases p with
  | nil => cases h
  | cons opr ops =>
    simp only [decode] at h
    split_ifs at h
    · rw [decodeZ_ok h]; rfl
    · rw [decodeZ_ok h]; rfl
    · exact decodeC_wellFormed h
    · exact decodeCA_wellFormed h
    · exact decodeW_wellFormed h
    · exact decodeS_wellFormed h
    · rw [decodeZ_ok h]; rfl
    · exact decodeF_wellFormed h

end Sys2Proof.Machine
end

section
/-! ## The invariant and the trace, kept by every step -/

namespace Sys2Proof.Machine

/-! ### The invariant (R33 to R36, R190) -/

theorem State.answer_inv {s : State} (h : s.inv) (hb : s.busy = false) (st : Status) : (s.answer st).inv := by
  obtain ⟨hc, hf, hrest, -⟩ := h
  exact ⟨hc, hf, fun _ => hrest hb, nofun⟩

theorem State.withInputs_inv {s : State} (h : s.inv) (rest : List Input) : (s.withInputs rest).inv := h

theorem exec_inv {i : Instr} {s t : State} (h : s.inv) (hb : s.busy = false) (hw : i.wellFormed = true)
    (he : exec i s = .next t) : t.inv := by
  cases exec_cases he with
  | ran lat buf ms ha hp ht =>
    have hsafe := accepted_safe h hb hw ha hp
    obtain ⟨hc, hf, -, -⟩ := h
    exact ht ▸ runMicros_inv ms ms _ hc hf rfl hp (Nat.zero_le _) rfl hsafe
  | refused ht => exact ht ▸ State.answer_inv h hb .preconditionViolation
  | nothingToDraw ht => exact ht ▸ State.answer_inv h hb .ok

theorem ownReset_inv {s : State} (hc : s.cfg.Valid) : s.ownReset.inv := by
  have hrest : s.ownReset.view.atRest :=
    ⟨nofun, fun hs => absurd rfl hs, fun hl => absurd rfl hl, nofun, nofun, nofun, nofun⟩
  exact ⟨hc, Controller.unknown_wf _, fun _ => hrest, nofun⟩

/-- The rest of a running request is safe from the present registers. -/
theorem State.inv.running {s : State} (h : s.inv) (hb : s.busy = true) {ms : List Micro}
    (hp : microProgram s.cfg s.lat = some ms) : s.upc ≤ ms.length ∧ View.safeRun (ms.drop s.upc) s.view := by
  obtain ⟨-, -, -, hrun⟩ := h
  obtain ⟨ms', hp', hu, hs⟩ := hrun hb
  exact Option.some.inj (hp'.symm.trans hp) ▸ ⟨hu, hs⟩

theorem step_inv {s t : State} (h : s.inv) (hst : step s = .next t) : t.inv := by
  cases step_cases hst with
  | ownReset rest hi ht => exact ht ▸ ownReset_inv (s := s.withInputs rest) h.1
  | resumed ms hb hno hp hu ht =>
    have hsafe := (h.running hb hp).2
    obtain ⟨hc, hf, -, -⟩ := h
    exact ht ▸ runMicros_inv ms _ s hc hf hb hp hu rfl hsafe
  | waited hb hi ht => exact ht ▸ h
  | executed p rest i hb hi hd he => exact exec_inv (s.withInputs_inv h rest) hb (decode_wellFormed hd) he
  | undecodable p rest e hb hi hd ht => exact ht ▸ State.answer_inv (s.withInputs_inv h rest) hb .preconditionViolation

/-- Settles O35: acceptance enters a safe micro-program (`accepted_safe`), and running a safe one keeps the invariant
(`runMicros_inv`). -/
theorem stepKeepsInvariant : Obligations.StepKeepsInvariant := fun _ _ h hst => step_inv h hst

/-- Settles O34: nothing is driven, no request runs, no pixel is known, and the reference parameters are legal. -/
theorem invariantAtReset : Obligations.InvariantAtReset := by
  have hidle : State.reset.busy = false := rfl
  have hinv : State.reset.inv :=
    ⟨by decide, List.Pairwise.nil, fun _ => by decide, fun hb => absurd hb (by simp [hidle])⟩
  exact ⟨hinv, ⟨trivial, rfl⟩, fun hb => absurd hb (by simp [hidle]),
    ⟨nofun, fun hb => absurd hb (by simp [hidle])⟩⟩

/-- Settles O38: R33 is part of being at rest, which the invariant says of an idle state. -/
theorem chipSelectMatchesSession : Obligations.ChipSelectMatchesSession := by
  intro s h hb
  obtain ⟨-, -, hrest, -⟩ := h
  obtain ⟨hcs, hopen, -⟩ := hrest hb
  exact ⟨hcs, hopen⟩

/-- Settles O39: the next step of a running request is the head of a safe list. -/
theorem transfersOnlyInsideASession : Obligations.TransfersOnlyInsideASession := by
  intro s ms src tmo ws h hb hp hm
  obtain ⟨-, hsafe⟩ := h.running hb hp
  obtain ⟨hlt, hget⟩ := List.getElem?_eq_some_iff.1 hm
  rw [List.drop_eq_getElem_cons hlt, hget] at hsafe
  obtain ⟨⟨⟨ocs, odc, orst, hcs, hrst, hl⟩, ⟨hpos, -, hdc⟩, -⟩, -⟩ := hsafe
  rw [TxSource.read_view] at hpos hdc
  exact ⟨ocs, odc, orst, hcs, hrst, hl, hpos, fun h0 => (hdc h0).1⟩

/-! ### The trace (R31, R34, R35) -/

/-- The lines of a view. -/
def View.wires (v : View) : Wires := ⟨v.cs, v.dc, v.rst⟩

theorem View.wires_foldl_afterWrite (ws : List RegWrite) (v : View) :
    (ws.foldl View.afterWrite v).wires = v.wires := by
  induction ws generalizing v with
  | nil => rfl
  | cons w ws ih => rw [List.foldl_cons, ih]; cases w <;> rfl

/-- An observer of the event knows the lines after the micro-operation. -/
theorem View.wires_afterOp {op : MicroOp} {s : State} {e : Event} (h : op.makes s e) (v : View) :
    (v.afterOp op).wires = v.wires.see e := by
  cases op with
  | mode p => cases (h : e = _); cases p <;> rfl
  | line p l => cases (h : e = _); cases p <;> rfl
  | tx src tmo => obtain ⟨a, rfl⟩ := h; rfl
  | delay d => cases (h : e = _); rfl
  | busSetup => obtain ⟨a, rfl⟩ := h; rfl
  | busClose => obtain ⟨a, rfl⟩ := h; rfl

/-- A safe step makes an event the lines allow. -/
theorem View.safeStep_allows {m : Micro} {s : State} {e : Event} (h : s.view.safeStep m) (he : m.op.makes s e) :
    s.wires.allows e := by
  obtain ⟨op, ws⟩ := m
  cases op with
  | mode p => cases (he : e = _); trivial
  | line p l => cases (he : e = _); cases p <;> exact h
  | tx src tmo =>
    obtain ⟨a, rfl⟩ := he
    obtain ⟨⟨ocs, odc, orst, hcs, hrst, -⟩, hphase, -⟩ := h
    exact ⟨ocs, odc, orst, hcs, hrst, TxSource.read_view s src ▸ hphase⟩
  | delay d => cases (he : e = _); trivial
  | busSetup => obtain ⟨a, rfl⟩ := he; trivial
  | busClose => obtain ⟨a, rfl⟩ := he; trivial

theorem Wires.allowsAll_append (w : Wires) (es fs : List Event) :
    w.allowsAll (es ++ fs) ↔ w.allowsAll es ∧ (es.foldl Wires.see w).allowsAll fs := by
  induction es generalizing w with
  | nil => simp [Wires.allowsAll]
  | cons e es ih => simp [Wires.allowsAll, ih, and_assoc]

/-- The trace stays safe when an allowed event is appended and the lines are what it says. -/
theorem State.traceSafe_event {s t : State} {e : Event} (h : s.traceSafe) (ha : s.wires.allows e)
    (ht : t.trace = s.trace ++ [e]) (hw : t.wires = s.wires.see e) : t.traceSafe := by
  obtain ⟨hall, hlines⟩ := h
  refine ⟨?_, by rw [ht, List.foldl_append, hlines, hw]; rfl⟩
  rw [ht, Wires.allowsAll_append, hlines]
  exact ⟨hall, ha, trivial⟩

theorem State.traceSafe_congr {s t : State} (h : s.traceSafe) (ht : t.trace = s.trace) (hw : t.wires = s.wires) :
    t.traceSafe := by
  unfold State.traceSafe
  rw [ht, hw]
  exact h

theorem Stepped.traceSafe {m : Micro} {s t : State} (h : Stepped m s t) (hs : s.view.safeStep m)
    (hsafe : s.traceSafe) : t.traceSafe := by
  obtain ⟨e, he, htr⟩ := h.trace
  refine State.traceSafe_event hsafe (View.safeStep_allows hs he) htr ?_
  calc t.wires = (s.view.after m).wires := congrArg View.wires h.view
    _ = (s.view.afterOp m.op).wires := View.wires_foldl_afterWrite _ _
    _ = s.wires.see e := View.wires_afterOp he _

theorem Ran.traceSafe {m : Micro} {s t : State} (h : Ran m.op s t) (hs : s.view.safeStep m)
    (hsafe : s.traceSafe) : t.traceSafe := by
  obtain ⟨e, he, htr⟩ := h.trace
  refine State.traceSafe_event hsafe (View.safeStep_allows hs he) htr ?_
  calc t.wires = (s.view.afterOp m.op).wires := congrArg View.wires h.view
    _ = s.wires.see e := View.wires_afterOp he _

/-- The abort path of a driven chip-select keeps the trace safe. -/
theorem State.abort_traceSafe {s : State} (h : s.traceSafe) (hcs : s.cs.level = false → s.cs.oe = true) :
    s.abort.traceSafe := by
  cases hl : s.cs.level with
  | true =>
    obtain ⟨ht, hw⟩ := s.abort_released hl
    exact State.traceSafe_congr h ht hw
  | false =>
    obtain ⟨ht, hw⟩ := s.abort_asserted hl
    exact State.traceSafe_event (e := .line .cs true) h (hcs hl) ht hw

theorem Micro.onError_traceSafe {m : Micro} {s t : State} (h : Ran m.op s t) (hc : m.op.canRaise = true)
    (hs : s.view.safeStep m) (hsafe : s.traceSafe) : (m.onError t).traceSafe := by
  have ht := h.traceSafe hs hsafe
  have hv := h.view
  obtain ⟨op, ws⟩ := m
  cases op with
  | tx src tmo =>
    have hcs : t.cs = s.cs := congrArg View.cs hv
    obtain ⟨⟨ocs, -⟩, -⟩ := hs
    exact State.abort_traceSafe ht fun _ => hcs ▸ ocs
  | busSetup =>
    have hcs : t.cs = s.cs := congrArg View.cs hv
    obtain ⟨hhigh, -⟩ := hs
    have hhigh' : t.cs.level = true := hcs ▸ hhigh
    exact State.abort_traceSafe ht fun hlow => by simp [hhigh'] at hlow
  | busClose =>
    have k := t.writeAll_kept ws
    exact State.traceSafe_congr ht k.trace (by simp [State.wires, Micro.onError, k.cs, k.dc, k.rst])
  | mode p => cases hc
  | line p l => cases hc
  | delay d => cases hc

/-- Running a safe list keeps the trace safe, whatever the transport answers. -/
theorem runMicros_traceSafe (ms : List Micro) (s : State) (hs : View.safeRun ms s.view) (h : s.traceSafe) :
    (runMicros ms s).traceSafe := by
  induction ms generalizing s with
  | nil => exact h
  | cons m ms ih =>
    have e : runMicros (m :: ms) s = ((m.perform s).andThen (runSeq ms)).finish := by rw [runMicros, runSeq_cons]
    obtain ⟨hstep, hrun⟩ := hs
    rw [e]
    rcases m.perform_cases s with ⟨u, hu, st⟩ | ⟨u, hu, r, c⟩ | ⟨u, hu, w⟩
    · rw [hu]
      exact ih u (st.view ▸ hrun) (st.traceSafe hstep h)
    · rw [hu]
      exact Micro.onError_traceSafe r c hstep h
    · rw [hu]
      obtain ⟨tx, bus, n, rfl⟩ := w.same
      exact h

theorem exec_traceSafe {i : Instr} {s t : State} (h : s.inv) (hb : s.busy = false) (hw : i.wellFormed = true)
    (hs : s.traceSafe) (he : exec i s = .next t) : t.traceSafe := by
  cases exec_cases he with
  | ran lat buf ms ha hp ht =>
    exact ht ▸ runMicros_traceSafe ms _ (accepted_safe h hb hw ha hp) hs
  | refused ht => exact ht ▸ hs
  | nothingToDraw ht => exact ht ▸ hs

/-- Settles O37: every event of a safe list is allowed by the lines at its turn. -/
theorem stepKeepsTraceSafety : Obligations.StepKeepsTraceSafety := by
  intro s t h hs hst
  cases step_cases hst with
  | ownReset rest hi ht => exact ht ▸ ⟨trivial, rfl⟩
  | resumed ms hb hno hp hu ht => exact ht ▸ runMicros_traceSafe _ s (h.running hb hp).2 hs
  | waited hb hi ht => exact ht ▸ hs
  | executed p rest i hb hi hd he =>
    exact exec_traceSafe (s := s.withInputs rest) h hb (decode_wellFormed hd) hs he
  | undecodable p rest e hb hi hd ht => exact ht ▸ hs

end Sys2Proof.Machine
end

section
/-! ## How requests end: errors (R36) and sessions (R23) -/

namespace Sys2Proof.Machine

/-! ### Which request was accepted -/

/-- The `OPR` latch of an accepted request is its opcode (R24). -/
theorem accepted_opr {s a : State} {i : Instr} (h : s.accepted i = some a) : a.lat.opr = Laws.opcodeOf i := by
  unfold State.accepted at h
  split_ifs at h
  cases i with
  | fillRect x y w k color =>
    obtain ⟨c, -, rfl⟩ := Option.map_eq_some_iff.1 h
    rfl
  | initialise => cases h; rfl
  | cleanup => cases h; rfl
  | sendBare cmd => cases h; rfl
  | send cmd args => cases h; rfl
  | setWindow dir x1 y1 x2 y2 => cases h; rfl
  | stream data => cases h; rfl
  | endSession => cases h; rfl

theorem accepted_admitted {s a : State} {i : Instr} (h : s.accepted i = some a) : requestAdmitted i s = true := by
  unfold State.accepted at h
  split_ifs at h with hg
  exact (Bool.and_eq_true_iff.1 hg).1

theorem opcodeOf_cleanup {i : Instr} (h : Laws.opcodeOf i = opCleanup) : i = .cleanup := by
  cases i <;> simp [Laws.opcodeOf, opCleanup] at h ⊢

theorem opcodeOf_setWindow {i : Instr} (h : Laws.opcodeOf i = opSetWindow) :
    ∃ dir x1 y1 x2 y2, i = .setWindow dir x1 y1 x2 y2 := by
  cases i <;> simp [Laws.opcodeOf, opSetWindow] at h ⊢

/-! ### The one request that closes the bus -/

theorem initialiseProgram_noBusClose (c : Config) : NoBusClose (initialiseProgram c) := by
  have hstart : NoBusClose (bringupLines ++ bringupBus) := by
    simp [NoBusClose, bringupLines, bringupBus, thenWrite, plain]
  have hpulse := ((bringupReset_noBusClose.thenWrite (.lstate .resetSettled)).append
    (bringupTable_noBusClose c)).thenWrite (.lstate .registersProgrammed)
  exact (hstart.append hpulse).append ((bringupDisplay_noBusClose c).thenWrite _)

theorem window_noBusClose (c : Config) (x1 y1 x2 y2 : Word16) (dir : Dir) : NoBusClose (window c x1 y1 x2 y2 dir) := by
  simp [NoBusClose, window, thenWrite, plain]

theorem fillProgram_noBusClose (c : Config) (lat : Latches) : NoBusClose (fillProgram c lat) := by
  have hrows : NoBusClose (List.replicate (span lat.y1 lat.y2) (plain (.tx .rowBuf .row))) := by
    intro m hm
    rw [List.eq_of_mem_replicate hm]
    nofun
  have hend : NoBusClose endSessionProgram := by simp [NoBusClose, endSessionProgram]
  exact (((window_noBusClose _ _ _ _ _ _).thenWrite _).append hrows).append hend

/-- Only CLEANUP makes a `bus_close`. -/
theorem microProgram_closes {c : Config} {lat : Latches} {ms : List Micro} (h : microProgram c lat = some ms) :
    (lat.opr = opCleanup ∧ ms = cleanupProgram) ∨ NoBusClose ms := by
  unfold microProgram at h
  split_ifs at h with h1 h2 <;> cases h
  · exact .inr (initialiseProgram_noBusClose c)
  · exact .inl ⟨h2, rfl⟩
  · exact .inr (frame_noBusClose _ _)
  · exact .inr (frame_noBusClose _ _)
  · exact .inr (window_noBusClose _ _ _ _ _ _)
  · exact .inr (by simp [NoBusClose, streamProgram, plain])
  · exact .inr (by simp [NoBusClose, endSessionProgram])
  · exact .inr (fillProgram_noBusClose c lat)

/-- What is left of a micro-program: CLEANUP before its only step, or steps that close no bus. -/
theorem microProgram_drop_closes {c : Config} {lat : Latches} {ms : List Micro} (h : microProgram c lat = some ms)
    (n : Nat) : (lat.opr = opCleanup ∧ ms.drop n = cleanupProgram) ∨ NoBusClose (ms.drop n) := by
  rcases microProgram_closes h with ⟨ho, rfl⟩ | hn
  · cases n with
    | zero => exact .inl ⟨ho, rfl⟩
    | succ n => exact .inr (by simp [NoBusClose, cleanupProgram])
  · exact .inr fun m hm => hn m (List.mem_of_mem_drop hm)

/-- A list that closes no bus is answered `OK` after its last step or by the abort path. -/
theorem runMicros_ends {ms : List Micro} {s : State} (hn : NoBusClose ms) (hb : s.busy = true)
    (ht : (runMicros ms s).busy = false) :
    (∃ u, Completed ms s u ∧ runMicros ms s = u.respond .ok) ∨ ∃ u, runMicros ms s = State.abort u := by
  cases runMicros_cases ms s with
  | answered u h e => exact .inl ⟨u, h, e⟩
  | failed pre m post v u hms h r hc e => exact .inr ⟨u, e.trans (m.onError_eq_abort u (hn m (by simp [hms])))⟩
  | waiting pre m post v hms h w =>
    rw [w.busy, h.kept.busy, hb] at ht
    cases ht

/-- CLEANUP leaves the session and chip-select alone, whatever the transport answers (R186). -/
theorem runMicros_cleanup (s : State) :
    (runMicros cleanupProgram s).session = s.session ∧ (runMicros cleanupProgram s).cs = s.cs := by
  rw [runMicros, cleanupProgram, runSeq_cons]
  rcases Micro.perform_cases ⟨.busClose, [.lstate .uninitialized]⟩ s with
    ⟨u, hu, st⟩ | ⟨u, hu, r, c⟩ | ⟨u, hu, w⟩
  · rw [hu]
    exact ⟨congrArg View.session st.view, congrArg View.cs st.view⟩
  · rw [hu]
    exact ⟨congrArg View.session r.view, congrArg View.cs r.view⟩
  · rw [hu]
    obtain ⟨tx, bus, n, rfl⟩ := w.same
    exact ⟨rfl, rfl⟩

/-! ### Errors (R36) -/

/-- The session is closed and chip-select, if it is driven, is high. -/
def State.released (s : State) : Prop := s.session = .closed ∧ (s.cs.oe = true → s.cs.level = true)

theorem released_of_atRest {s : State} (h : s.view.atRest) (hs : s.session = .closed) : s.released := by
  obtain ⟨hcs, -⟩ := h
  exact ⟨hs, fun hoe => (hcs hoe).2 hs⟩

/-- A micro-program, run from any of its steps, that ends in an error has released the bus. -/
theorem runMicros_error_released {c : Config} {lat : Latches} {ms : List Micro} (hp : microProgram c lat = some ms)
    (n : Nat) {s : State} (hclose : lat.opr = opCleanup → ms.drop n = cleanupProgram → s.released)
    (hb : s.busy = true) (ht : (runMicros (ms.drop n) s).busy = false)
    (he : (runMicros (ms.drop n) s).status = .transportError) : (runMicros (ms.drop n) s).released := by
  rcases microProgram_drop_closes hp n with ⟨ho, hd⟩ | hn
  · obtain ⟨hsession, hcs⟩ := runMicros_cleanup s
    have hrel := hclose ho hd
    rw [hd, State.released, hsession, hcs]
    exact hrel
  · rcases runMicros_ends hn hb ht with ⟨u, -, e⟩ | ⟨u, e⟩
    · rw [e] at he
      cases he
    · rw [e]
      exact ⟨u.abort_session, fun _ => u.abort_cs_level⟩

theorem exec_errors {s t : State} {i : Instr} (h : s.inv) (hb : s.busy = false) (he : exec i s = .next t)
    (ht : t.busy = false) :
    (t.status = .transportError → t.released) ∧ (t.status = .preconditionViolation → t = s.refuse) := by
  cases exec_cases he with
  | ran lat buf ms ha hp e =>
    have hclose (ho : lat.opr = opCleanup) : (s.accept lat buf).released := by
      obtain rfl := opcodeOf_cleanup ((accepted_opr ha).symm.trans ho)
      have hadm : s.lstate ≠ .uninitialized ∧ s.session = .closed := by
        simpa [requestAdmitted] using accepted_admitted ha
      obtain ⟨-, -, hrest, -⟩ := h
      exact released_of_atRest (s := s) (hrest hb) hadm.2
    rw [e] at ht ⊢
    exact ⟨runMicros_error_released hp 0 (fun ho _ => hclose ho) rfl ht,
      fun hv => absurd hv (runMicros_status ms _ rfl ht)⟩
  | refused e => rw [e]; exact ⟨nofun, fun _ => rfl⟩
  | nothingToDraw e => rw [e]; exact ⟨nofun, nofun⟩

theorem resume_errors {s : State} {ms : List Micro} (h : s.inv) (hb : s.busy = true)
    (hp : microProgram s.cfg s.lat = some ms) (ht : (runMicros (ms.drop s.upc) s).busy = false) :
    ((runMicros (ms.drop s.upc) s).status = .transportError → (runMicros (ms.drop s.upc) s).released) ∧
      (runMicros (ms.drop s.upc) s).status ≠ .preconditionViolation := by
  refine ⟨runMicros_error_released hp s.upc (fun _ hd => ?_) hb ht, runMicros_status _ s hb ht⟩
  obtain ⟨-, hsafe⟩ := h.running hb hp
  rw [hd] at hsafe
  obtain ⟨hclose, -⟩ := hsafe
  have hs : s.session = .closed := View.session_closed_of_atRest hclose nofun
  obtain ⟨hcs, -⟩ := hclose
  exact ⟨hs, fun hoe => (hcs hoe).2 hs⟩

/-- Settles O33: an error goes through the abort path or is CLEANUP's, which is admitted only with the bus released; and
only the refusal path answers `PRECONDITION_VIOLATION`. -/
theorem errorsLeaveTheBusIdle : Obligations.ErrorsLeaveTheBusIdle := by
  refine ⟨fun s t i h hb he ht => ?_, fun s t h hst ht hresp => ?_⟩
  · obtain ⟨herr, hpre⟩ := exec_errors h hb he ht
    exact ⟨herr, fun hv => by rw [hpre hv, s.refuse_eq, hb]⟩
  · cases step_cases hst with
    | ownReset rest hi e => rw [e] at hresp; simp at hresp
    | resumed ms hb hno hp hu e =>
      subst e
      obtain ⟨herr, hpre⟩ := resume_errors h hb hp ht
      exact ⟨herr, fun hv => absurd hv hpre⟩
    | waited hb hi e => rw [e] at hresp; simp at hresp
    | executed p rest i hb hi hd he =>
      obtain ⟨herr, hpre⟩ := exec_errors (s.withInputs_inv h rest) hb he ht
      exact ⟨herr, fun hv => ⟨p, rest, hb, hi, by rw [hpre hv, State.refuse_eq, hb]; rfl⟩⟩
    | undecodable p rest x hb hi hd e =>
      rw [e]
      exact ⟨nofun, fun _ => ⟨p, rest, hb, hi, by rw [State.refuse_eq, hb]; rfl⟩⟩

/-! ### Sessions (R23) -/

/-- The change of the view leaves the session alone or sets it to one value, whatever it was. -/
def KeepsOrSetsSession (f : View → View) : Prop :=
  (∀ v, (f v).session = v.session) ∨ ∃ x, ∀ v, (f v).session = x

theorem KeepsOrSetsSession.comp {f g : View → View} (hg : KeepsOrSetsSession g) (hf : KeepsOrSetsSession f) :
    KeepsOrSetsSession fun v => g (f v) := by
  rcases hg with hg | ⟨x, hg⟩
  · rcases hf with hf | ⟨x, hf⟩
    · exact .inl fun v => (hg _).trans (hf v)
    · exact .inr ⟨x, fun v => (hg _).trans (hf v)⟩
  · exact .inr ⟨x, fun v => hg _⟩

theorem keepsOrSetsSession_writes (ws : List RegWrite) : KeepsOrSetsSession (ws.foldl View.afterWrite) := by
  induction ws with
  | nil => exact .inl fun _ => rfl
  | cons w ws ih =>
    have hw : KeepsOrSetsSession (View.afterWrite · w) := by
      cases w with
      | session x => exact .inr ⟨x, fun _ => rfl⟩
      | lstate l => exact .inl fun _ => rfl
      | rowBuf bs => exact .inl fun _ => rfl
    exact ih.comp hw

theorem View.session_afterOp (op : MicroOp) (v : View) : (v.afterOp op).session = v.session := by
  cases op with
  | mode p => cases p <;> rfl
  | line p l => cases p <;> rfl
  | tx src tmo => rfl
  | delay d => rfl
  | busSetup => rfl
  | busClose => rfl

theorem keepsOrSetsSession_afterAll (ms : List Micro) : KeepsOrSetsSession (View.afterAll ms) := by
  induction ms with
  | nil => exact .inl fun _ => rfl
  | cons m ms ih => exact ih.comp ((keepsOrSetsSession_writes m.writes).comp (.inl (View.session_afterOp m.op)))

/-- What is left of a list leaves the session alone or ends with the session of the whole list. -/
theorem View.session_afterAll_drop (ms : List Micro) (n : Nat) (v w : View) :
    (v.afterAll (ms.drop n)).session = v.session ∨ (v.afterAll (ms.drop n)).session = (w.afterAll ms).session := by
  rcases keepsOrSetsSession_afterAll (ms.drop n) with hk | ⟨x, hx⟩
  · exact .inl (hk v)
  · refine .inr ?_
    rw [← List.take_append_drop n ms, View.afterAll_append, List.take_append_drop n ms, hx, hx]

/-- The session after a whole micro-program: only SET_WINDOW's leaves one open that was not. -/
theorem microProgram_session {c : Config} {lat : Latches} {ms : List Micro} (h : microProgram c lat = some ms)
    (v : View) :
    (v.afterAll ms).session = v.session ∨ (v.afterAll ms).session = .closed ∨
      (lat.opr = opSetWindow ∧ (v.afterAll ms).session = Session.ofDir lat.dir) := by
  unfold microProgram at h
  split_ifs at h with h1 h2 h3 h4 h5 h6 h7 h8 <;> cases h
  · obtain ⟨-, -, -, hend⟩ := initialiseProgram_spec c v
    exact .inl (by rw [hend])
  · exact .inl rfl
  · exact .inl (by rw [sendBareProgram, View.afterAll_frame])
  · exact .inl (by rw [sendProgram, View.afterAll_frame])
  · exact .inr (.inr ⟨h5, by rw [setWindowProgram, View.afterAll_window]⟩)
  · exact .inl rfl
  · exact .inr (.inl rfl)
  · exact .inr (.inl (by rw [View.afterAll_fillProgram]))

/-- The session after a micro-program run from any of its steps to its response. -/
theorem runMicros_session {c : Config} {lat : Latches} {ms : List Micro} (hp : microProgram c lat = some ms) (n : Nat)
    {s : State} (hb : s.busy = true) (ht : (runMicros (ms.drop n) s).busy = false)
    (ho : (runMicros (ms.drop n) s).session ≠ .closed) :
    (runMicros (ms.drop n) s).session = s.session ∨
      (lat.opr = opSetWindow ∧ (runMicros (ms.drop n) s).session = Session.ofDir lat.dir) := by
  rcases microProgram_drop_closes hp n with ⟨-, hd⟩ | hn
  · obtain ⟨hsession, -⟩ := runMicros_cleanup s
    exact .inl (by rw [hd, hsession])
  · rcases runMicros_ends hn hb ht with ⟨u, hu, e⟩ | ⟨u, e⟩
    · have hs : (runMicros (ms.drop n) s).session = (s.view.afterAll (ms.drop n)).session :=
        (congrArg State.session e).trans (congrArg View.session hu.view)
      rw [hs] at ho ⊢
      rcases View.session_afterAll_drop ms n s.view s.view with hk | hall
      · exact .inl hk
      · rw [hall] at ho ⊢
        rcases microProgram_session hp s.view with hv | hv | hv
        · exact .inl hv
        · exact absurd hv ho
        · exact .inr hv
    · exact absurd (by rw [e, State.abort_session]) ho

/-- The direction of an accepted SET_WINDOW is in its latch (R24). -/
theorem accepted_setWindow_dir {s a : State} {dir : Dir} {x1 y1 x2 y2 : Word16}
    (h : s.accepted (.setWindow dir x1 y1 x2 y2) = some a) : a.lat.dir = dir := by
  unfold State.accepted at h
  split_ifs at h
  cases h
  rfl

theorem exec_session {s t : State} {i : Instr} (he : exec i s = .next t) (ht : t.busy = false)
    (ho : t.session ≠ .closed) :
    t.session = s.session ∨ ∃ dir x1 y1 x2 y2, i = .setWindow dir x1 y1 x2 y2 ∧ t.session = Session.ofDir dir := by
  cases exec_cases he with
  | ran lat buf ms ha hp e =>
    subst e
    rcases runMicros_session hp 0 rfl ht ho with hs | ⟨hop, hs⟩
    · exact .inl hs
    · obtain ⟨dir, x1, y1, x2, y2, rfl⟩ := opcodeOf_setWindow ((accepted_opr ha).symm.trans hop)
      exact .inr ⟨dir, x1, y1, x2, y2, rfl, accepted_setWindow_dir ha ▸ hs⟩
  | refused e => exact .inl (by rw [e, State.refuse_session])
  | nothingToDraw e => exact .inl (by rw [e, State.answer_session])

/-- Settles O48: of all micro-programs only SET_WINDOW's ends with a session of its own open (`microProgram_session`). -/
theorem onlySetWindowOpensASession : Obligations.OnlySetWindowOpensASession := by
  refine ⟨fun s t i hb he ht ho => exec_session he ht ho, fun s t hst ht ho => ?_⟩
  cases step_cases hst with
  | ownReset rest hi e => exact absurd (by rw [e, State.ownReset_session]) ho
  | resumed ms hb hno hp hu e =>
    subst e
    rcases runMicros_session hp s.upc hb ht ho with hs | ⟨hop, hs⟩
    · exact .inl hs
    · exact .inr (.inl ⟨hb, hop, hs⟩)
  | waited hb hi e => exact .inl (by rw [e])
  | executed p rest i hb hi hd he =>
    rcases exec_session he ht ho with hs | ⟨dir, x1, y1, x2, y2, rfl, hs⟩
    · exact .inl hs
    · exact .inr (.inr ⟨hb, p, rest, dir, x1, y1, x2, y2, hi, hd, hs⟩)
  | undecodable p rest x hb hi hd e => exact .inl (by rw [e]; rfl)

end Sys2Proof.Machine
end

section
/-! # Family 20: memory

## What an operation can do to the frame memory (R66, logs 13 to 17) -/

namespace Sys2Proof.Machine

/-! ### The bytes of a 16-bit value -/

theorem hi_eq_extractLsb' (v : Word16) : hi v = v.extractLsb' 8 8 := by
  apply BitVec.eq_of_toNat_eq
  simp [hi, BitVec.extractLsb'_toNat, Nat.shiftRight_eq_div_pow]

theorem lo_eq_extractLsb' (v : Word16) : lo v = v.extractLsb' 0 8 := by
  apply BitVec.eq_of_toNat_eq
  simp [lo, BitVec.extractLsb'_toNat]

theorem be16_eq_extractLsb' (v : Word16) : be16 v = [v.extractLsb' 8 8, v.extractLsb' 0 8] := by
  rw [be16, hi_eq_extractLsb', lo_eq_extractLsb']

/-- Settles O54, from the two bytes of one value. -/
theorem sixteenBitValuesGoOutHighByteFirst : Obligations.SixteenBitValuesGoOutHighByteFirst := by
  refine ⟨be16_eq_extractLsb', word16_hi_lo, fun a b => ?_, by decide⟩
  rw [boundBytes, be16_eq_extractLsb', be16_eq_extractLsb']
  rfl

/-! ### One transfer -/

/-- A transfer the transport answers: it completes on the full count and raises otherwise (R59, R122). -/
theorem State.tx_of_answer {s t : State} {a : TxAnswer} (h : s.nextTx = (.answer a, t)) (bytes : List Byte)
    (tmo : Timeout) :
    s.tx bytes tmo =
      if a = .ok bytes.length then .completed ((t.deliver bytes).emit (.tx bytes tmo a))
      else .raised ((t.deliverPrefix bytes).emit (.tx bytes tmo a)) := by
  rw [State.tx, h]

theorem State.tx_of_pending {s t : State} (h : s.nextTx = (.pending, t)) (bytes : List Byte) (tmo : Timeout) :
    s.tx bytes tmo = .blocked t := by
  rw [State.tx, h]

/-- Settles O32: the two ends of an answered transfer differ in what reached the controller, not in the framer. -/
theorem transferSucceedsOnlyOnFullCount : Obligations.TransferSucceedsOnlyOnFullCount := by
  intro s bytes tmo a rest h
  rw [State.tx_of_answer (s.nextTx_cons _ _ h)]
  by_cases ha : a = .ok bytes.length
  · simp only [if_pos ha]
    exact ⟨_, rfl, rfl, rfl, rfl, rfl, rfl, rfl, rfl, rfl, rfl⟩
  · simp only [if_neg ha]
    exact ⟨_, rfl, rfl, rfl, rfl, rfl, rfl, rfl, rfl, rfl, rfl⟩

/-! ### Bytes that complete no pixel -/

theorem Controller.opcode_params (g : Config) (c : Controller) (b : Byte) : (c.opcode g b).params = [] := by
  unfold Controller.opcode
  split_ifs <;> rfl

/-- Only the memory-write opcode begins a memory-write (R66). -/
theorem Controller.opcode_op_ne_ramwr (g : Config) (c : Controller) (b : Byte) (hb : b ≠ g.opcRamwr) :
    (c.opcode g b).op ≠ .ramwr := by
  unfold Controller.opcode
  split_ifs <;> simp

/-- The memory-write opcode begins at the window's first pixel (R66). -/
theorem Controller.opcode_ramwr (g : Config) (hc : g.opcCaset ≠ g.opcRamwr) (hp : g.opcPaset ≠ g.opcRamwr)
    (c : Controller) : c.opcode g g.opcRamwr = { c with op := .ramwr, params := [], k := 0 } := by
  rw [Controller.opcode, if_neg hc.symm, if_neg hp.symm, if_pos rfl]

/-- A parameter byte outside a memory-write stores nothing and leaves the operation as it is. -/
theorem Controller.param_of_op_ne_ramwr (g : Config) (c : Controller) (b : Byte) (ho : c.op ≠ .ramwr) :
    (c.param g b).fb = c.fb ∧ (c.param g b).op = c.op := by
  obtain ⟨x1, x2, y1, y2, op, ps, k, fb⟩ := c
  unfold Controller.param
  cases op with
  | ramwr => exact absurd rfl ho
  | none => exact ⟨rfl, rfl⟩
  | other => exact ⟨rfl, rfl⟩
  | caset => dsimp only; split <;> [skip; split_ifs] <;> exact ⟨rfl, rfl⟩
  | paset => dsimp only; split <;> [skip; split_ifs] <;> exact ⟨rfl, rfl⟩

/-- The first of a pixel's two bytes stores nothing. -/
theorem Controller.param_fb_of_no_params (g : Config) (c : Controller) (b : Byte) (hp : c.params = []) :
    (c.param g b).fb = c.fb := by
  by_cases ho : c.op = .ramwr
  · simp [Controller.param, ho, hp]
  · exact (c.param_of_op_ne_ramwr g b ho).1

@[simp] theorem Controller.receive_nil (g : Config) (cs dc : Level) (c : Controller) : c.receive g cs dc [] = c := by
  cases cs <;> rfl

theorem Controller.receive_cons (g : Config) (dc : Level) (b : Byte) (bytes : List Byte) (c : Controller) :
    c.receive g false dc (b :: bytes) = (if dc then c.param g b else c.opcode g b).receive g false dc bytes := rfl

theorem Controller.receive_opcodes_fb (g : Config) (cs : Level) (bytes : List Byte) (c : Controller) :
    (c.receive g cs false bytes).fb = c.fb := by
  cases cs with
  | true => rfl
  | false =>
    induction bytes generalizing c with
    | nil => rfl
    | cons b bs ih => rw [receive_cons]; exact (ih _).trans (c.opcode_fb g b)

theorem Controller.receive_params_fb (g : Config) (cs : Level) (bytes : List Byte) (c : Controller)
    (ho : c.op ≠ .ramwr) : (c.receive g cs true bytes).fb = c.fb := by
  cases cs with
  | true => rfl
  | false =>
    induction bytes generalizing c with
    | nil => rfl
    | cons b bs ih =>
      obtain ⟨hfb, hop⟩ := c.param_of_op_ne_ramwr g b ho
      rw [receive_cons]
      exact (ih _ (hop ▸ ho)).trans hfb

/-- Bytes complete no pixel when the controller takes no pixels, when they are opcodes, when it does not listen, or when
they are one byte and no half pixel is waiting. -/
theorem Controller.receive_fb (g : Config) (cs dc : Level) (bytes : List Byte) (c : Controller)
    (h : c.op ≠ .ramwr ∨ dc = false ∨ cs = true ∨ (c.params = [] ∧ bytes.length < 2)) :
    (c.receive g cs dc bytes).fb = c.fb := by
  cases dc with
  | false => exact c.receive_opcodes_fb g cs bytes
  | true =>
    cases cs with
    | true => rfl
    | false =>
      rcases h with ho | hd | hs | ⟨hp, hl⟩
      · exact c.receive_params_fb g false bytes ho
      · cases hd
      · cases hs
      · match bytes, hl with
        | [], _ => rfl
        | [b], _ => exact c.param_fb_of_no_params g b hp

/-- The two bytes of one pixel, in a memory-write with no half pixel waiting and room in the window. -/
theorem Controller.receive_pixel (g : Config) (h l : Byte) (c : Controller) (ho : c.op = .ramwr) (hp : c.params = [])
    (hk : c.k < c.columns * c.rows) :
    c.receive g false true [h, l] = { c.storePixel g h l with params := [] } := by
  obtain ⟨x1, x2, y1, y2, op, ps, k, fb⟩ := c
  subst ho hp
  have store : ∀ ps, Controller.storePixel g ⟨x1, x2, y1, y2, .ramwr, ps, k, fb⟩ h l = _ := fun ps =>
    Controller.storePixel_eq g ⟨x1, x2, y1, y2, .ramwr, ps, k, fb⟩ h l hk
  rw [store []]
  exact congrArg (fun d : Controller => { d with params := [] }) (store [h])

/-- A stored pixel reads back as its two bytes, high byte first (R53). -/
theorem Controller.pixel_storePixel (g : Config) (h l : Byte) (c : Controller) (hk : c.k < c.columns * c.rows) :
    (c.storePixel g h l).pixel (c.order g.scanOrder c.k).1 (c.order g.scanOrder c.k).2 = some (word16 h l) := by
  rw [c.storePixel_eq g h l hk, Controller.pixel]
  dsimp only
  rw [Memory.read_write_same, Memory.read_write_other _ _ _ _ (by omega), Memory.read_write_same]

/-! ### One step, by how it ends -/

theorem Stepped.of_running {m : Micro} {s t : State} (h : m.perform s = .running t) : Stepped m s t := by
  rcases m.perform_cases s with ⟨u, hu, st⟩ | ⟨u, hu, -⟩ | ⟨u, hu, -⟩ <;> cases h.symm.trans hu
  exact st

theorem Micro.perform_ended_status {m : Micro} {s t : State} (h : m.perform s = .ended t) :
    t.status = .transportError := by
  rcases m.perform_cases s with ⟨u, hu, -⟩ | ⟨u, hu, -⟩ | ⟨u, hu, -⟩ <;> cases h.symm.trans hu
  exact m.onError_status u

theorem Waits.of_blocked {m : Micro} {s t : State} (h : m.perform s = .blocked t) : Waits s t := by
  rcases m.perform_cases s with ⟨u, hu, -⟩ | ⟨u, hu, -⟩ | ⟨u, hu, w⟩ <;> cases h.symm.trans hu
  exact w

/-! ### Steps that spare a byte of the frame memory -/

/-- However the micro-operation ends, it leaves the byte at this address alone: no initial part of a transfer's bytes
stores it (a failed transfer may deliver any, log 17), and the controller is not reset. -/
def Controller.opSpares (g : Config) (a : Nat) (v : View) (c : Controller) : MicroOp → Prop
  | .tx src _ => ∀ bs, bs <+: v.source src → (c.receive g v.cs.level v.dc.level bs).fb.read a = c.fb.read a
  | .line .rst l => l = true
  | .line .cs _ => True
  | .line .dc _ => True
  | .mode _ => True
  | .delay _ => True
  | .busSetup => True
  | .busClose => True

/-- Every step of the list leaves the byte at this address alone when its turn comes. -/
def Controller.spares (g : Config) (a : Nat) : List Micro → View → Controller → Prop
  | [], _, _ => True
  | m :: ms, v, c => c.opSpares g a v m.op ∧ Controller.spares g a ms (v.after m) (c.afterOp g v m.op)

/-- The state a micro-operation leaves, however it ends. -/
def OpResult.state : OpResult → State
  | .completed t => t
  | .raised t => t
  | .blocked t => t

theorem State.busSetup_ctl (s : State) : s.busSetup.state.ctl = s.ctl := by
  obtain ⟨sc, n, h, -, -⟩ := s.nextBus_spec
  unfold State.busSetup
  split <;> simp_all [OpResult.state]

theorem State.busClose_ctl (s : State) : s.busClose.state.ctl = s.ctl := by
  obtain ⟨sc, n, h, -, -⟩ := s.nextBus_spec
  unfold State.busClose
  split <;> simp_all [OpResult.state]

/-- What reaches the controller is the transfer's bytes from the first on: all of them, some of them, or none. -/
theorem State.tx_ctl (bytes : List Byte) (tmo : Timeout) (s : State) :
    ∃ bs, bs <+: bytes ∧ (s.tx bytes tmo).state.ctl = s.ctl.receive s.cfg s.cs.level s.dc.level bs := by
  obtain ⟨sc, n, h, -, -⟩ := s.nextTx_spec
  rcases hr : s.nextTx with ⟨r, t⟩
  rw [hr] at h
  subst h
  cases r with
  | pending => exact ⟨[], List.nil_prefix, by rw [State.tx_of_pending hr, Controller.receive_nil]; rfl⟩
  | answer x =>
    rw [State.tx_of_answer hr]
    split_ifs
    · exact ⟨bytes, List.prefix_rfl, rfl⟩
    · exact ⟨_, List.take_prefix _ bytes, rfl⟩

theorem MicroOp.run_byte {a : Nat} (op : MicroOp) (s : State) (h : s.ctl.opSpares s.cfg a s.view op) :
    (op.run s).state.ctl.fb.read a = s.ctl.fb.read a := by
  cases op with
  | mode p => exact congrArg (fun c : Controller => c.fb.read a) (s.mode_ctl p)
  | delay d => rfl
  | line p v =>
    cases p with
    | cs => cases v <;> rfl
    | dc => exact congrArg (fun c : Controller => c.fb.read a) (s.line_dc_ctl v)
    | rst => cases h; rfl
  | tx src tmo =>
    obtain ⟨bs, hbs, e⟩ := s.tx_ctl (src.read s) tmo
    exact (congrArg (fun c : Controller => c.fb.read a) e).trans (h bs (by rwa [TxSource.read_view]))
  | busSetup => exact congrArg (fun c : Controller => c.fb.read a) s.busSetup_ctl
  | busClose => exact congrArg (fun c : Controller => c.fb.read a) s.busClose_ctl

/-- Neither the abort path (R204) nor a failed `bus_close` touches the frame memory. -/
theorem Micro.onError_fb (m : Micro) (s : State) : (m.onError s).ctl.fb = s.ctl.fb := by
  by_cases h : m.op = .busClose
  · rw [m.onError_busClose s h, State.respond_ctl, (s.writeAll_kept m.writes).ctl]
  · rw [m.onError_eq_abort s h]
    unfold State.abort
    dsimp only
    split_ifs <;> rfl

theorem Micro.perform_byte {a : Nat} (m : Micro) (s : State) (h : s.ctl.opSpares s.cfg a s.view m.op) :
    (m.perform s).state.ctl.fb.read a = s.ctl.fb.read a := by
  have hr := m.op.run_byte s h
  unfold Micro.perform
  cases hx : m.op.run s with
  | completed t =>
    rw [hx] at hr
    exact (congrArg (fun c : Controller => c.fb.read a) (t.writeAll_kept m.writes).ctl).trans hr
  | raised t =>
    rw [hx] at hr
    exact (congrArg (Memory.read · a) (m.onError_fb t)).trans hr
  | blocked t =>
    rw [hx] at hr
    exact hr

theorem Controller.opSpares.keepsController {g : Config} {a : Nat} {v : View} {c : Controller} {m : Micro}
    (h : c.opSpares g a v m.op) : m.keepsController := by
  intro hop
  rw [hop] at h
  cases h

/-- A run of steps that all spare a byte leaves it as it was, whatever the transport answers. -/
theorem runMicros_byte {a : Nat} (ms : List Micro) (s : State) (h : s.ctl.spares s.cfg a ms s.view) :
    (runMicros ms s).ctl.fb.read a = s.ctl.fb.read a := by
  have step : ∀ {m ms u t p},
      (Controller.spares u.cfg a (m :: ms) u.view u.ctl ∧ u.ctl.fb.read a = s.ctl.fb.read a) →
      m.perform u = p → p.state = t → t.ctl.fb.read a = s.ctl.fb.read a := by
    rintro m ms u _ _ ⟨⟨hm, -⟩, hu⟩ rfl rfl
    exact (m.perform_byte u hm).trans hu
  refine runMicros_induct
    (P := fun ms u => Controller.spares u.cfg a ms u.view u.ctl ∧ u.ctl.fb.read a = s.ctl.fb.read a)
    (Q := fun u => u.ctl.fb.read a = s.ctl.fb.read a) (fun m ms u t hu hp => ⟨?_, step hu hp rfl⟩)
    (fun m ms u t hu hp => step hu hp rfl) (fun m ms u t hu hp => step hu hp rfl) (fun u hu => hu.2) ms s ⟨h, rfl⟩
  obtain ⟨hm, hms⟩ := hu.1
  have st := Stepped.of_running hp
  rw [st.cfg, st.view, m.perform_ctl u t hp hm.keepsController]
  exact hms

/-- A request whose micro-program spares a byte leaves it as it was: behind the gate by the program, refused by R203. -/
theorem exec_byte {i : Instr} {s t : State} {lat : Latches} {buf : List Byte} {ms : List Micro} {a : Nat}
    (hx : exec i s = .next (s.gate i (runMicros ms (s.accept lat buf)))) (he : exec i s = .next t)
    (h : s.ctl.spares s.cfg a ms (s.accept lat buf).view) : t.ctl.fb.read a = s.ctl.fb.read a := by
  obtain rfl := Host.Outcome.next.inj (hx.symm.trans he)
  unfold State.gate
  split_ifs
  · exact runMicros_byte ms (s.accept lat buf) h
  · rfl

/-! ### Which bytes each micro-program spares -/

theorem cleanupProgram_spares (g : Config) (a : Nat) (v : View) (c : Controller) : c.spares g a cleanupProgram v :=
  ⟨trivial, trivial⟩

theorem endSessionProgram_spares (g : Config) (a : Nat) (v : View) (c : Controller) :
    c.spares g a endSessionProgram v := ⟨trivial, trivial⟩

/-- A frame spares what every initial part of its argument bytes spares once the opcode has been received. -/
theorem frame_spares {g : Config} {a : Nat} {v : View} {c : Controller} {cmd : Byte} {args : Option TxSource}
    (h : ∀ bs, bs <+: frameBytes v args → ((c.opcode g cmd).receive g false true bs).fb.read a = c.fb.read a) :
    c.spares g a (frame cmd args) v := by
  have opc : ∀ bs, (c.receive g false false bs).fb.read a = c.fb.read a := fun bs => by
    rw [Controller.receive_opcodes_fb]
  cases args with
  | none => exact ⟨trivial, trivial, fun bs _ => opc bs, trivial, trivial⟩
  | some src =>
    refine ⟨trivial, trivial, fun bs _ => opc bs, trivial, fun bs hbs => ?_, trivial, trivial⟩
    have hsrc : bs <+: v.source src := by cases src <;> exact hbs
    exact (h bs hsrc).trans (congrArg (Memory.read · a) (c.opcode_fb g cmd).symm)

/-- The two bounds opcodes are not the memory-write opcode (R7). -/
theorem Config.boundsOpcodes_ne_ramwr {g : Config} (hg : g.OpcodesOk) :
    g.opcCaset ≠ g.opcRamwr ∧ g.opcPaset ≠ g.opcRamwr := by
  have hn := hg.1
  simp only [Config.ownOpcodes, List.nodup_cons, List.mem_cons, not_or] at hn
  exact ⟨hn.1.2.1, hn.2.1.1⟩

/-- A window frame stores nothing: its opcodes and bounds are no pixels. -/
theorem window_spares {g : Config} (hg : g.OpcodesOk) (a : Nat) (x1 y1 x2 y2 : Word16) (dir : Dir) (v : View)
    (c : Controller) : c.spares g a (window g x1 y1 x2 y2 dir) v := by
  obtain ⟨hx, hy⟩ := Config.boundsOpcodes_ne_ramwr hg
  have opc : ∀ (d : Controller) bs, (d.receive g false false bs).fb.read a = d.fb.read a := fun d bs => by
    rw [Controller.receive_opcodes_fb]
  have bounds : ∀ (d : Controller) (b : Byte) bs, b ≠ g.opcRamwr →
      ((d.opcode g b).receive g false true bs).fb.read a = (d.opcode g b).fb.read a := fun d b bs hb => by
    rw [Controller.receive_params_fb _ _ _ _ (d.opcode_op_ne_ramwr g b hb)]
  exact ⟨trivial, trivial, fun bs _ => opc _ bs, trivial, fun bs _ => bounds _ _ bs hx, trivial, fun bs _ => opc _ bs,
    trivial, fun bs _ => bounds _ _ bs hy, trivial, fun bs _ => opc _ bs, trivial, trivial⟩

theorem streamProgram_spares {g : Config} {a : Nat} {v : View} {c : Controller}
    (h : ∀ bs, bs <+: v.argBytes → (c.receive g v.cs.level v.dc.level bs).fb.read a = c.fb.read a) :
    c.spares g a streamProgram v := ⟨h, trivial⟩

/-! ### Which bytes each request spares -/

/-- STREAM leaves alone what no initial part of its data stores. -/
theorem exec_stream_byte {s t : State} {data : List Byte} {a : Nat} (he : exec (.stream data) s = .next t)
    (h : ∀ bs, bs <+: data → (s.ctl.receive s.cfg s.cs.level s.dc.level bs).fb.read a = s.ctl.fb.read a) :
    t.ctl.fb.read a = s.ctl.fb.read a :=
  exec_byte rfl he (streamProgram_spares fun bs hbs => h bs (hbs.trans (List.take_prefix _ data)))

/-- The argument part of a SEND's frame carries argument bytes only. -/
theorem frameBytes_send_isPrefix (s : State) (cmd : Byte) (args : List Byte) :
    frameBytes (s.accept (s.lat.ofSend cmd args) args).view
      (if (s.lat.ofSend cmd args).narg = 0 then none else some .argBuf) <+: args := by
  split_ifs
  · exact List.nil_prefix
  · exact List.take_prefix _ args

/-- SEND leaves alone what no initial part of its arguments stores once the opcode has been received. -/
theorem exec_send_byte {s t : State} {cmd : Byte} {args : List Byte} {a : Nat} (he : exec (.send cmd args) s = .next t)
    (h : ∀ bs, bs <+: args → ((s.ctl.opcode s.cfg cmd).receive s.cfg false true bs).fb.read a = s.ctl.fb.read a) :
    t.ctl.fb.read a = s.ctl.fb.read a :=
  exec_byte rfl he (frame_spares fun bs hbs => h bs (hbs.trans (frameBytes_send_isPrefix s cmd args)))

/-- SEND_BARE stores nothing: it has no argument part. -/
theorem exec_sendBare_byte {s t : State} {cmd : Byte} (he : exec (.sendBare cmd) s = .next t) (a : Nat) :
    t.ctl.fb.read a = s.ctl.fb.read a := by
  refine exec_byte rfl he (frame_spares fun bs hbs => ?_)
  obtain rfl : bs = [] := List.prefix_nil.1 hbs
  rw [Controller.receive_nil, Controller.opcode_fb]

/-- The argument bytes of a SEND complete no pixel if the opcode begins no memory-write or they are fewer than two. -/
theorem exec_send_keepsMemory {s t : State} {cmd : Byte} {args : List Byte} (he : exec (.send cmd args) s = .next t)
    (h : cmd ≠ s.cfg.opcRamwr ∨ args.length < 2) (a : Nat) : t.ctl.fb.read a = s.ctl.fb.read a := by
  refine exec_send_byte he fun bs hbs => ?_
  rw [Controller.receive_fb, Controller.opcode_fb]
  rcases h with hc | hl
  · exact .inl (s.ctl.opcode_op_ne_ramwr s.cfg cmd hc)
  · exact .inr (.inr (.inr ⟨s.ctl.opcode_params s.cfg cmd, hbs.length_le.trans_lt hl⟩))

/-- A STREAM that is refused, or whose data complete no pixel, stores nothing. -/
theorem exec_stream_keepsMemory {s t : State} {data : List Byte} (he : exec (.stream data) s = .next t)
    (h : s.session ≠ .openWrite ∨ s.ctl.op ≠ .ramwr ∨ s.dc.level = false ∨ s.cs.level = true ∨
      (s.ctl.params = [] ∧ data.length < 2)) (a : Nat) : t.ctl.fb.read a = s.ctl.fb.read a := by
  rcases h with hs | h
  · rw [exec_refused _ s (.inl (by simpa [requestAdmitted] using hs))] at he
    cases he
    rfl
  · refine exec_stream_byte he fun bs hbs => congrArg (Memory.read · a) (Controller.receive_fb _ _ _ _ _ ?_)
    exact h.imp_right (.imp_right (.imp_right (.imp_right hbs.length_le.trans_lt)))

/-- A FILL_RECT that is refused or has nothing to draw leaves the controller alone. -/
theorem exec_fillRect_ctl_of_no_drawing {s t : State} {x y w h color : Word16} (hd : s.cfg.DimsOk)
    (he : exec (.fillRect x y w h color) s = .next t)
    (hn : s.lstate ≠ .active ∨ s.session ≠ .closed ∨ s.cfg.width ≤ x.toNat ∨ s.cfg.height ≤ y.toNat ∨ w = 0 ∨ h = 0) :
    t.ctl = s.ctl := by
  by_cases hm : s.lstate = .active ∧ s.session = .closed
  · have hc : clip s.cfg x y w h = none := by
      rw [clip_eq_none_iff _ hd]
      rcases hn with hl | hs | hx | hy | rfl | rfl
      · exact absurd hm.1 hl
      · exact absurd hm.2 hs
      · exact .inl hx
      · exact .inr (.inl hy)
      · exact .inr (.inr (.inl rfl))
      · exact .inr (.inr (.inr rfl))
    rw [exec_fillRect s x y w h color hm.1 hm.2, fillBody, hc] at he
    cases he
    rfl
  · have hr : requestAdmitted (.fillRect x y w h color) s = false := Bool.eq_false_iff.2 (mt (commandMode_iff s).1 hm)
    rw [exec_refused _ s (.inl hr)] at he
    cases he
    rfl

/-- Settles O50: the micro-program of each of these requests spares every byte, or the request runs none. -/
theorem frameMemoryKeptByNonStoringRequests : Obligations.FrameMemoryKeptByNonStoringRequests := by
  intro s t i hv hb he hi a
  obtain ⟨hd, -, -, -, hop, -, -⟩ := hv
  rcases hi with rfl | rfl | ⟨dir, x1, y1, x2, y2, rfl⟩ | ⟨cmd, rfl⟩ | ⟨cmd, args, rfl, h⟩ | ⟨data, rfl, h⟩ |
    ⟨x, y, w, h, color, rfl, hn⟩ | ⟨rfl, hl⟩
  · exact exec_byte rfl he (cleanupProgram_spares s.cfg a _ s.ctl)
  · exact exec_byte rfl he (endSessionProgram_spares s.cfg a _ s.ctl)
  · exact exec_byte rfl he (window_spares hop a _ _ _ _ _ _ s.ctl)
  · exact exec_sendBare_byte he a
  · exact exec_send_keepsMemory he h a
  · exact exec_stream_keepsMemory he h a
  · rw [exec_fillRect_ctl_of_no_drawing hd he hn]
  · rw [exec_refused _ s (.inl (by simpa [requestAdmitted] using hl))] at he
    cases he
    rfl

/-! ### Requests that store pixels -/

/-- Settles O51: every initial part of the data stores only into the pixels the whole data can complete. -/
theorem streamStoresOnlyIntoNextPixels : Obligations.StreamStoresOnlyIntoNextPixels := by
  intro s t data hv hb he ho hdc hk a ha
  refine exec_stream_byte he fun bs hbs => ?_
  have hlen := hbs.length_le
  rw [hdc]
  cases s.cs.level with
  | true => rfl
  | false => exact (s.ctl.receive_ramwr s.cfg bs ho _ (by split_ifs <;> omega) hk).2.2 a ha

/-- Settles O52: the memory-write opcode sets the counter to the window's first pixel. -/
theorem memoryWriteSendStoresFromFirstPixel : Obligations.MemoryWriteSendStoresFromFirstPixel := by
  intro s t args hv hb he hk a ha
  obtain ⟨-, -, -, -, hop, -, -⟩ := hv
  refine exec_send_byte he fun bs hbs => ?_
  have hlen := hbs.length_le
  obtain ⟨hx, hy⟩ := Config.boundsOpcodes_ne_ramwr hop
  rw [s.ctl.opcode_ramwr s.cfg hx hy]
  set c : Controller := { s.ctl with op := .ramwr, params := [], k := 0 } with hc
  refine (c.receive_ramwr s.cfg bs rfl (args.length / 2) ?_ ?_).2.2 a fun j hj => ?_
  · rw [if_pos rfl]
    omega
  · rw [hc, Nat.zero_add]
    exact hk
  · rw [hc, Nat.zero_add]
    exact ha j hj

/-- What a request answered `OK` has made of the controller: every step completed. -/
theorem runMicros_ctl_of_ok {ms : List Micro} {s : State} (hr : ∀ m ∈ ms, m.keepsController) (hb : s.busy = true)
    (ht : (runMicros ms s).busy = false) (hok : (runMicros ms s).status = .ok) :
    (runMicros ms s).ctl = Controller.afterAll s.cfg ms s.view s.ctl := by
  revert ht hok
  generalize hC : Controller.afterAll s.cfg ms s.view s.ctl = d
  refine runMicros_induct
    (P := fun ms u => (∀ m ∈ ms, m.keepsController) ∧ u.busy = true ∧ Controller.afterAll u.cfg ms u.view u.ctl = d)
    (Q := fun u => u.busy = false → u.status = .ok → u.ctl = d)
    ?running ?ended ?blocked (fun u hu _ _ => hu.2.2) ms s ⟨hr, hb, hC⟩
  case running =>
    rintro m ms u t ⟨hk, hu, hd⟩ hp
    have st := Stepped.of_running hp
    refine ⟨fun x hx => hk x (List.mem_cons_of_mem m hx), st.busy.trans hu, ?_⟩
    rw [st.cfg, st.view, m.perform_ctl u t hp (hk m List.mem_cons_self)]
    exact hd
  case ended =>
    rintro m ms u t - hp - hok
    rw [Micro.perform_ended_status hp] at hok
    cases hok
  case blocked =>
    rintro m ms u t ⟨-, hu, -⟩ hp hbusy -
    rw [(Waits.of_blocked hp).busy, hu] at hbusy
    cases hbusy

/-- Settles O53: the one transfer completed, so the controller received both bytes of the pixel. -/
theorem streamStoresThePixelAtTheCounter : Obligations.StreamStoresThePixelAtTheCounter := by
  intro s t color hv hb hs he ht hok ho hp hdc hcs hk
  rw [exec_stream s _ hs (List.cons_ne_nil _ _)] at he
  cases he
  have keeps : ∀ m ∈ streamProgram, m.keepsController := by simp [streamProgram, plain, Micro.keepsController]
  have hctl := runMicros_ctl_of_ok keeps rfl ht hok
  have hall : Controller.afterAll s.cfg streamProgram
      (s.accept (s.lat.ofStream [hi color, lo color]) [hi color, lo color]).view s.ctl =
        s.ctl.receive s.cfg s.cs.level s.dc.level [hi color, lo color] := rfl
  have e : _ = { s.ctl.storePixel s.cfg (hi color) (lo color) with params := [] } :=
    hctl.trans (hall.trans (by rw [hcs, hdc, s.ctl.receive_pixel _ _ _ ho hp hk]))
  have pix := s.ctl.pixel_storePixel s.cfg (hi color) (lo color) hk
  rw [word16_hi_lo] at pix
  rw [e]
  exact ⟨pix, by rw [s.ctl.storePixel_eq _ _ _ hk], by rw [s.ctl.storePixel_eq _ _ _ hk]; exact ho, rfl⟩

end Sys2Proof.Machine
end

section
/-! # Family 30: encoding

## Packets and requests (R80 to R95) -/

namespace Sys2Proof.Machine

/-! ### 16-bit values in a packet (R83) -/

theorem toNat_word16 (h l : Byte) : (word16 h l).toNat = h.toNat * 256 + l.toNat := by
  have hh := h.isLt
  have hl := l.isLt
  rw [word16, BitVec.toNat_ofNat, Nat.mod_eq_of_lt (by omega)]

/-- The other direction of `word16_hi_lo`. -/
theorem be16_word16 (h l : Byte) : be16 (word16 h l) = [h, l] := by
  have hl := l.isLt
  have ehi : hi (word16 h l) = h := by
    rw [hi, toNat_word16, show (h.toNat * 256 + l.toNat) / 256 = h.toNat by omega, BitVec.ofNat_toNat,
      BitVec.setWidth_eq]
  have elo : lo (word16 h l) = l := by
    apply BitVec.eq_of_toNat_eq
    rw [lo, toNat_word16, BitVec.toNat_ofNat]
    omega
  rw [be16, ehi, elo]

/-- `NARG` can count the bytes of a list a packet can carry (R86, R88). -/
theorem toNat_narg {bs : List Byte} (h : bs.length ≤ 65535) : (BitVec.ofNat 16 bs.length).toNat = bs.length := by
  rw [BitVec.toNat_ofNat, Nat.mod_eq_of_lt (by omega)]

/-- A `NARG` field that counts the bytes of a list is the one the encoder writes for it. -/
theorem be16_narg {h l : Byte} {n : Nat} (hn : n = (word16 h l).toNat) : be16 (BitVec.ofNat 16 n) = [h, l] := by
  rw [hn, BitVec.ofNat_toNat, BitVec.setWidth_eq, be16_word16]

/-! ### A packet that decodes, format by format (R84 to R89) -/

theorem encode_of_decodeZ {opr : Byte} {j i : Instr} {ops : List Byte} (h : decodeZ opr j ops = .ok i)
    (hj : encode j = [opr]) : encode i = opr :: ops := by
  cases ops with
  | nil => cases h; exact hj
  | cons b bs => cases h

theorem encode_of_decodeC {ops : List Byte} {i : Instr} (h : decodeC ops = .ok i) : encode i = opSendBare :: ops := by
  unfold decodeC at h
  split at h <;> cases h
  rfl

theorem encode_of_decodeCA {ops : List Byte} {i : Instr} (h : decodeCA ops = .ok i) : encode i = opSend :: ops := by
  unfold decodeCA at h
  split at h
  · next cmd n1 n0 args =>
    split_ifs at h with hn
    cases h
    rw [encode, be16_narg hn]
    rfl
  · cases h

theorem dirByte_of_dirOfByte {b : Byte} {d : Dir} (h : dirOfByte b = .ok d) : dirByte d = b := by
  unfold dirOfByte at h
  split_ifs at h with h0 h1 <;> cases h
  · exact h0.symm
  · exact h1.symm

theorem encode_of_decodeW {ops : List Byte} {i : Instr} (h : decodeW ops = .ok i) : encode i = opSetWindow :: ops := by
  unfold decodeW at h
  split at h
  · split at h
    · next hd =>
      cases h
      simp only [encode, be16_word16, dirByte_of_dirOfByte hd]
      rfl
    · cases h
  · cases h

theorem encode_of_decodeS {ops : List Byte} {i : Instr} (h : decodeS ops = .ok i) : encode i = opStream :: ops := by
  unfold decodeS at h
  split at h
  · next n1 n0 data =>
    split_ifs at h with hn
    cases h
    rw [encode, be16_narg hn]
    rfl
  · cases h

theorem encode_of_decodeF {ops : List Byte} {i : Instr} (h : decodeF ops = .ok i) : encode i = opFillRect :: ops := by
  unfold decodeF at h
  split at h <;> cases h
  simp only [encode, be16_word16]
  rfl

theorem encode_of_decode {p : List Byte} {i : Instr} (h : decode p = .ok i) : encode i = p := by
  cases p with
  | nil => cases h
  | cons opr ops =>
    simp only [decode] at h
    split_ifs at h with h1 h2 h3 h4 h5 h6 h7 h8
    · exact encode_of_decodeZ h (by rw [h1]; rfl)
    · exact encode_of_decodeZ h (by rw [h2]; rfl)
    · exact h3 ▸ encode_of_decodeC h
    · exact h4 ▸ encode_of_decodeCA h
    · exact h5 ▸ encode_of_decodeW h
    · exact h6 ▸ encode_of_decodeS h
    · exact encode_of_decodeZ h (by rw [h7]; rfl)
    · exact h8 ▸ encode_of_decodeF h

/-- Settles O7: each format's decoder accepts only what the encoder writes for its result (`encode_of_decode`). -/
theorem encodeOfDecode : Obligations.EncodeOfDecode := fun _ _ h => ⟨encode_of_decode h, decode_wellFormed h⟩

/-! ### Packets that do not decode (R91, R92) -/

theorem packetShape (i : Instr) : Laws.PacketShape.Statement i := by
  cases i with
  | initialise => exact Laws.PacketShape.initialise
  | cleanup => exact Laws.PacketShape.cleanup
  | sendBare cmd => exact Laws.PacketShape.sendBare cmd
  | send cmd args => exact Laws.PacketShape.send cmd args
  | setWindow dir x1 y1 x2 y2 => exact Laws.PacketShape.setWindow dir x1 y1 x2 y2
  | stream data => exact Laws.PacketShape.stream data
  | endSession => exact Laws.PacketShape.endSession
  | fillRect x y w h color => exact Laws.PacketShape.fillRect x y w h color

/-- A packet that decodes has the opcode and the length of its request (R90). -/
theorem decode_shape {opr : Byte} {ops : List Byte} {i : Instr} (h : decode (opr :: ops) = .ok i) :
    opr = Laws.opcodeOf i ∧ ops.length + 1 = Laws.lengthOf i := by
  obtain ⟨ops', he, hl⟩ := packetShape i
  obtain ⟨rfl, rfl⟩ := List.cons.inj ((encode_of_decode h).symm.trans he)
  exact ⟨rfl, hl⟩

/-- The two bytes of a list's `NARG` count it (R86, R88). -/
theorem narg_counts {bs : List Byte} (hlen : bs.length ≤ 65535) {h l : Byte}
    (hh : hi (BitVec.ofNat 16 bs.length) = h) (hl : lo (BitVec.ofNat 16 bs.length) = l) :
    bs.length = h.toNat * 256 + l.toNat := by
  rw [← toNat_word16, ← hh, ← hl, word16_hi_lo, toNat_narg hlen]

theorem decode_send_narg {cmd n1 n0 cmd' : Byte} {ops args : List Byte}
    (h : decode (opSend :: cmd :: n1 :: n0 :: ops) = .ok (.send cmd' args)) :
    ops.length = n1.toNat * 256 + n0.toNat := by
  have he : opSend :: cmd' :: hi (BitVec.ofNat 16 args.length) :: lo (BitVec.ofNat 16 args.length) :: args =
    opSend :: cmd :: n1 :: n0 :: ops := encode_of_decode h
  simp only [List.cons.injEq] at he
  obtain ⟨-, -, hh, hl, rfl⟩ := he
  exact narg_counts (of_decide_eq_true (decode_wellFormed h)) hh hl

theorem decode_stream_narg {n1 n0 : Byte} {ops data : List Byte}
    (h : decode (opStream :: n1 :: n0 :: ops) = .ok (.stream data)) :
    ops.length = n1.toNat * 256 + n0.toNat := by
  have he : opStream :: hi (BitVec.ofNat 16 data.length) :: lo (BitVec.ofNat 16 data.length) :: data =
    opStream :: n1 :: n0 :: ops := encode_of_decode h
  simp only [List.cons.injEq] at he
  obtain ⟨-, hh, hl, rfl⟩ := he
  exact narg_counts (of_decide_eq_true (decode_wellFormed h)) hh hl

/-- An idle framer refuses a packet that is no request (R203). -/
theorem step_refuses {s : State} {p : List Byte} {rest : List Input} (hb : s.busy = false)
    (hi : s.inputs = .packet p :: rest) (hno : ∀ i, decode p ≠ .ok i) :
    step s = .next { s with
      inputs := rest, status := .preconditionViolation, busy := false, responses := s.responses ++ [0x02] } := by
  cases hd : decode p with
  | ok i => exact absurd hd (hno i)
  | error e => rw [step_of_undecodable hb hi hd, State.refuse_eq]; rfl

/-- Settles O8: a packet that decodes begins with its request's opcode. -/
theorem reservedOpcodeRefused : Obligations.ReservedOpcodeRefused := by
  intro s p rest hb hi hp
  refine step_refuses hb hi fun i hd => ?_
  rcases hp with rfl | ⟨opr, ops, rfl, hres⟩
  · cases hd
  · obtain ⟨rfl, -⟩ := decode_shape hd
    exact hres (by cases i <;> simp [Laws.opcodeOf])

/-- Settles O9: a packet that decodes has the length of its request, and its `NARG` counts its bytes. -/
theorem malformedPacketRefused : Obligations.MalformedPacketRefused := by
  intro s opr ops rest hb hi hbad
  refine step_refuses hb hi fun i hd => ?_
  obtain ⟨rfl, hlen⟩ := decode_shape hd
  cases i with
  | send cmd args =>
    have hbad : ops.length < 3 ∨ ∃ cmd n1 n0 args, ops = cmd :: n1 :: n0 :: args ∧
      args.length ≠ n1.toNat * 256 + n0.toNat := by simpa [Laws.opcodeOf] using hbad
    rcases hbad with hshort | ⟨c, n1, n0, bs, rfl, hne⟩
    · simp only [Laws.lengthOf] at hlen
      omega
    · exact hne (decode_send_narg hd)
  | stream data =>
    have hbad : ops.length < 2 ∨ ∃ n1 n0 data, ops = n1 :: n0 :: data ∧
      data.length ≠ n1.toNat * 256 + n0.toNat := by simpa [Laws.opcodeOf] using hbad
    rcases hbad with hshort | ⟨n1, n0, bs, rfl, hne⟩
    · simp only [Laws.lengthOf] at hlen
      omega
    · exact hne (decode_stream_narg hd)
  | initialise => exact absurd (Nat.succ.inj hlen) (by simpa [Laws.opcodeOf] using hbad)
  | cleanup => exact absurd (Nat.succ.inj hlen) (by simpa [Laws.opcodeOf] using hbad)
  | sendBare cmd => exact absurd (Nat.succ.inj hlen) (by simpa [Laws.opcodeOf] using hbad)
  | setWindow dir x1 y1 x2 y2 => exact absurd (Nat.succ.inj hlen) (by simpa [Laws.opcodeOf] using hbad)
  | endSession => exact absurd (Nat.succ.inj hlen) (by simpa [Laws.opcodeOf] using hbad)
  | fillRect x y w h color => exact absurd (Nat.succ.inj hlen) (by simpa [Laws.opcodeOf] using hbad)

/-- Settles O4: the step of an idle framer at a packet that decodes. -/
theorem stepRunsDecodedRequest : Obligations.StepRunsDecodedRequest := fun _ _ _ _ hb hi hd => step_of_decoded hb hi hd

/-! ### Colours and lines of text (R100, R102) -/

/-- Settles O55, by evaluation of nine constants. -/
theorem colourNamesHaveTheirPatterns : Obligations.ColourNamesHaveTheirPatterns := by
  unfold Obligations.ColourNamesHaveTheirPatterns
  decide

/-- Settles O57, by running the parser on the four lines. -/
theorem sampleLinesAssemble : Obligations.SampleLinesAssemble := by
  unfold Obligations.SampleLinesAssemble
  decide

end Sys2Proof.Machine
end

section
/-! ## The request while it runs: the latches, the port and the events (R81, R82, R96, R97, R101) -/

namespace Sys2Proof.Machine

/-! ### The request port (R81) -/

theorem Micro.onError_inputs (m : Micro) (s : State) : (m.onError s).inputs = s.inputs := by
  by_cases h : m.op = .busClose
  · rw [m.onError_busClose s h, State.respond_inputs, (s.writeAll_kept m.writes).inputs]
  · rw [m.onError_eq_abort s h, State.abort_inputs]

theorem runMicros_inputs (ms : List Micro) (s : State) : (runMicros ms s).inputs = s.inputs := by
  cases runMicros_cases ms s with
  | answered u h ht => rw [ht, State.respond_inputs, h.kept.inputs]
  | failed pre m post v u hms h r hc ht => rw [ht, m.onError_inputs, r.inputs, h.kept.inputs]
  | waiting pre m post v hms h w =>
    obtain ⟨tx, bus, n, e⟩ := w.same
    rw [e]
    exact h.kept.inputs

/-- Settles O3: a busy framer carries on, and no run of steps touches the port. -/
theorem busyFramerHoldsPackets : Obligations.BusyFramerHoldsPackets := by
  intro s p rest hb hi
  have hstep : step s = s.resume := step_of_busy hb (by simp [hi])
  refine ⟨hstep, fun t ht => ?_⟩
  obtain ⟨ms, -, -, rfl⟩ := resume_cases (hstep ▸ ht)
  exact runMicros_inputs _ s

/-! ### The latches until the response (R24, R25, R27, R82) -/

/-- A request the transport keeps waiting is still in its latches, and `UPC` has counted its events. -/
theorem runMicros_waiting {ms : List Micro} {s : State} (h : (runMicros ms s).busy = true) :
    (runMicros ms s).lat = s.lat ∧ (runMicros ms s).argBuf = s.argBuf ∧
      (runMicros ms s).trace.length + s.upc = s.trace.length + (runMicros ms s).upc := by
  cases runMicros_cases ms s with
  | answered u k e => rw [e] at h; cases h
  | failed pre m post v u hms k r hc e =>
    rw [e, m.onError_busy] at h
    cases h
  | waiting pre m post v hms k w =>
    obtain ⟨tx, bus, n, e⟩ := w.same
    obtain ⟨es, htrace, hlen⟩ := k.trace
    rw [e]
    refine ⟨k.kept.lat, k.kept.argBuf, ?_⟩
    simp only [htrace, List.length_append, hlen, k.upc]
    omega

/-- Only a request that runs its micro-program answers a busy state. -/
theorem exec_waiting {i : Instr} {s t : State} (h : exec i s = .next t) (ht : t.busy = true) :
    ∃ a, s.accepted i = some a ∧ t.lat = a.lat ∧ t.argBuf = a.argBuf ∧ t.trace.length = s.trace.length + t.upc := by
  cases exec_cases h with
  | ran lat buf ms ha hp e =>
    subst e
    exact ⟨_, ha, runMicros_waiting ht⟩
  | refused e => rw [e] at ht; cases ht
  | nothingToDraw e => rw [e] at ht; cases ht

/-- END_SESSION makes no transport call, so it is answered whatever the scripts hold. -/
theorem exec_endSession_busy {s t : State} (h : exec .endSession s = .next t) : t.busy = false := by
  obtain rfl := Host.Outcome.next.inj h
  rw [State.gate]
  split_ifs <;> rfl

/-- A step that leaves a running request running. -/
theorem step_waiting {s t : State} (hb : s.busy = true) (h : step s = .next t) (ht : t.busy = true) :
    t.lat = s.lat ∧ t.argBuf = s.argBuf ∧ t.trace.length + s.upc = s.trace.length + t.upc := by
  cases step_cases h with
  | ownReset rest hi e => rw [e] at ht; cases ht
  | resumed ms hb' hno hp hu e =>
    subst e
    exact runMicros_waiting ht
  | waited hb' hi e => simp [hb] at hb'
  | executed p rest i hb' hi hd he => simp [hb] at hb'
  | undecodable p rest x hb' hi hd e => simp [hb] at hb'

/-- Settles O59: a waiting request has the latches its acceptance loaded. -/
theorem acceptanceLatchesTheRequest : Obligations.AcceptanceLatchesTheRequest := by
  refine ⟨fun s t i hv hw hb he ht => ?_, fun s t hb hst ht => step_waiting hb hst ht⟩
  obtain ⟨a, ha, hlat, hbuf, htrace⟩ := exec_waiting he ht
  refine ⟨htrace, ?_⟩
  rw [hlat, hbuf]
  unfold State.accepted at ha
  split_ifs at ha
  cases i with
  | initialise => cases ha; rfl
  | cleanup => cases ha; rfl
  | sendBare cmd => cases ha; exact ⟨rfl, rfl⟩
  | send cmd args => cases ha; exact ⟨rfl, rfl, toNat_narg (of_decide_eq_true hw), rfl⟩
  | setWindow dir x1 y1 x2 y2 => cases ha; exact ⟨rfl, rfl, rfl, rfl, rfl, rfl⟩
  | stream data => cases ha; exact ⟨rfl, toNat_narg (of_decide_eq_true hw), rfl⟩
  | endSession => simp [exec_endSession_busy he] at ht
  | fillRect x y w h color =>
    obtain ⟨⟨x2, y2⟩, hclip, rfl⟩ := Option.map_eq_some_iff.1 ha
    exact ⟨rfl, rfl, rfl, rfl, rfl, rfl, rfl, rfl, (clip_eq_some_iff s.cfg hv.1 x y w h x2 y2).1 hclip⟩

/-! ### SEND and SEND_BARE (R96, R101) -/

/-- SEND's micro-program when its calls all succeed: its events, its transfers and the registers after it. -/
theorem sendProgram_spec (cmd : Byte) (args : List Byte) (lat : Latches) (v : View) (hlen : args.length ≤ 65535)
    (hv : v.argBytes = args) :
    okEvents (sendProgram (lat.ofSend cmd args)) v = commandFrame cmd args ∧
      txLengths (sendProgram (lat.ofSend cmd args)) v = frameLengths args ∧
      v.afterAll (sendProgram (lat.ofSend cmd args)) = { v with
        cs := { v.cs with level := true, written := true }
        dc := { v.dc with level := decide (args ≠ []), written := true } } := by
  by_cases h : args = []
  · subst h
    exact ⟨rfl, rfl, rfl⟩
  · have hn : (lat.ofSend cmd args).narg ≠ 0 := fun h0 => h (List.length_eq_zero_iff.1
      ((toNat_narg hlen).symm.trans (congrArg BitVec.toNat h0)))
    have hne : frameBytes v (some .argBuf) ≠ [] := fun h0 => h (hv.symm.trans h0)
    have hp : sendProgram (lat.ofSend cmd args) = frame cmd (some .argBuf) := by
      rw [sendProgram, if_neg hn]
      rfl
    rw [hp, okEvents_frame _ _ _ (.inr hne), txLengths_frame _ _ _ (.inr hne), View.afterAll_frame]
    exact ⟨congrArg _ hv, congrArg _ hv, by simp [h]⟩

/-- Settles O13: the events and registers of the micro-program whose calls all succeed. -/
theorem sendEmitsCommandFrame : Obligations.SendEmitsCommandFrame := by
  intro s cmd args rest hb hl hs hc hlen htx
  obtain ⟨hev, htl, hafter⟩ := sendProgram_spec cmd args s.lat (s.accept (s.lat.ofSend cmd args) args).view hlen
    (take_narg args hlen)
  obtain ⟨u, hrun, htrace, hview, htx', hbus, k⟩ := runMicros_ok (sendProgram (s.lat.ofSend cmd args))
    (s.accept (s.lat.ofSend cmd args) args) rest s.busScript (by rw [htl]; exact htx)
    (by rw [sendProgram, frame_busCalls]; rfl)
  rw [hev] at htrace
  rw [hafter] at hview
  refine ⟨_, (exec_send s cmd args hl hs hc).trans (congrArg _ hrun), ?_, rfl, congrArg (· ++ _) k.responses, rfl,
    congrArg View.cs hview, congrArg View.dc hview, congrArg View.rst hview, congrArg View.lstate hview,
    congrArg View.session hview, k.cfg, k.inputs, htx', hbus⟩
  rw [State.respond_trace, htrace]
  simp [commandFrame, txOk]

/-- Other values in the operand latches and `ARGBUF`. -/
def State.withLatches (lat : Latches) (buf : List Byte) (s : State) : State := { s with lat := lat, argBuf := buf }

theorem State.advance_withLatches (lat : Latches) (buf : List Byte) (s : State) :
    (s.withLatches lat buf).advance = s.advance.withLatches lat buf := rfl

theorem State.line_withLatches (lat : Latches) (buf : List Byte) (s : State) (p : Line) (v : Level) :
    (s.withLatches lat buf).line p v = (s.line p v).withLatches lat buf := by
  cases p <;> cases v <;> rfl

theorem State.nextTx_withLatches (lat : Latches) (buf : List Byte) (s : State) :
    (s.withLatches lat buf).nextTx = (s.nextTx.1, s.nextTx.2.withLatches lat buf) := by
  unfold State.nextTx
  cases h : s.txScript with
  | nil => simp only [State.withLatches, h]
  | cons r rest => simp only [State.withLatches, h]

/-- The abort path ends in a response, which forgets the latches (log 6). -/
theorem State.abort_withLatches (lat : Latches) (buf : List Byte) (s : State) :
    (s.withLatches lat buf).abort = s.abort := by
  unfold State.abort
  rw [State.line_withLatches, show (s.withLatches lat buf).cs = s.cs from rfl]
  dsimp only
  split_ifs <;> rfl

/-- How a bare command frame goes on from its transfer: chip-select released and `OK`, the abort path, or waiting. -/
def OpResult.endBareFrame : OpResult → State
  | .completed t => (t.advance.line .cs true).advance.respond .ok
  | .raised t => t.abort
  | .blocked t => t

theorem runMicros_bareFrame (cmd : Byte) (s : State) :
    runMicros (frame cmd none) s =
      ((((s.line .cs false).advance.line .dc false).advance).tx [cmd] .cmd).endBareFrame := by
  simp only [frame, frameArgs, plain, List.cons_append, List.nil_append, runMicros, runSeq, Micro.perform, MicroOp.run,
    TxSource.read, State.writeAll_nil]
  cases (((s.line .cs false).advance.line .dc false).advance).tx [cmd] .cmd <;> rfl

/-- A bare command frame reads no latch, and where the transport answers at once its response forgets them (log 6). -/
theorem runMicros_bareFrame_withLatches (cmd : Byte) (lat : Latches) (buf : List Byte) (s : State)
    (h : .pending ∉ s.txScript) :
    runMicros (frame cmd none) (s.withLatches lat buf) = runMicros (frame cmd none) s := by
  rw [runMicros_bareFrame, runMicros_bareFrame, State.line_withLatches, State.advance_withLatches,
    State.line_withLatches, State.advance_withLatches]
  have hv : .pending ∉ ((s.line .cs false).advance.line .dc false).advance.txScript := h
  generalize ((s.line .cs false).advance.line .dc false).advance = v at hv
  obtain ⟨-, -, -, -, hlate⟩ := v.nextTx_spec
  have hl := v.nextTx_withLatches lat buf
  rcases hr : v.nextTx with ⟨r, w⟩
  rw [hr] at hlate hl
  cases r with
  | pending => exact absurd (hlate rfl) hv
  | answer a =>
    rw [State.tx_of_answer hr, State.tx_of_answer hl]
    split_ifs
    · rfl
    · exact State.abort_withLatches lat buf ((w.deliverPrefix [cmd]).emit (.tx [cmd] .cmd a))

/-- Settles O15: both requests pass the same gate and run the same bare frame. -/
theorem emptySendEqualsSendBare : Obligations.EmptySendEqualsSendBare := by
  intro s cmd hb h
  have hrun := runMicros_bareFrame_withLatches cmd (s.lat.ofSend cmd []) []
    (s.accept (s.lat.ofSendBare cmd) s.argBuf) h.1
  exact congrArg (fun act => Host.Outcome.next (s.gate (.sendBare cmd) act)) hrun

/-! ### SET_WINDOW (R97) -/

/-- Settles O16: the events and registers of the window frame whose calls all succeed. -/
theorem setWindowEmitsWindowFrame : Obligations.SetWindowEmitsWindowFrame := by
  intro s dir x1 y1 x2 y2 rest hb hl hs hx hx2 hy hy2 htx
  obtain ⟨u, hrun, htrace, hview, htx', hbus, k⟩ := runMicros_ok
    (window s.cfg x1 y1 x2 y2 dir)
    (s.accept (s.lat.ofSetWindow dir x1 y1 x2 y2) s.argBuf) rest s.busScript htx rfl
  rw [okEvents_window] at htrace
  rw [View.afterAll_window] at hview
  refine ⟨_, (exec_setWindow s dir x1 y1 x2 y2 hl hs ⟨hx, hx2, hy, hy2⟩).trans (congrArg _ hrun), htrace, rfl,
    congrArg (· ++ _) k.responses, rfl, (congrArg View.session hview).trans (by cases dir <;> rfl),
    congrArg View.cs hview, congrArg View.dc hview, congrArg View.rst hview, congrArg View.lstate hview,
    k.cfg, k.inputs, htx', hbus⟩

end Sys2Proof.Machine
end

section
/-! # Family 40: micro-operations

## One step of the framer and the requests it makes up (R120, R126, R27) -/

namespace Sys2Proof.Machine

/-! ### What a running request has left to do -/

/-- A request is running and these are the steps of its micro-program from `UPC` on (R27). -/
def State.hasLeft (s : State) (ms : List Micro) : Prop :=
  s.busy = true ∧ ∃ all, microProgram s.cfg s.lat = some all ∧ s.upc ≤ all.length ∧ all.drop s.upc = ms

/-- A completed step leaves the rest of the list. -/
theorem Stepped.hasLeft {m : Micro} {ms : List Micro} {s t : State} (h : Stepped m s t) (hl : s.hasLeft (m :: ms)) :
    t.hasLeft ms := by
  obtain ⟨hb, all, hp, -, hd⟩ := hl
  refine ⟨h.busy.trans hb, all, by rw [h.cfg, h.lat, hp], ?_, ?_⟩
  · have hlen := congrArg List.length hd
    rw [List.length_drop, List.length_cons] at hlen
    rw [h.upc]
    omega
  · rw [h.upc, ← List.drop_drop, hd]
    rfl

theorem accept_hasLeft {s : State} {lat : Latches} {ms : List Micro} (hp : microProgram s.cfg lat = some ms)
    (buf : List Byte) : (s.accept lat buf).hasLeft ms :=
  ⟨rfl, ms, hp, Nat.zero_le _, rfl⟩

/-! ### One step in R126's sense -/

theorem microStep_of_idle {s : State} (hb : s.busy = false) : s.microStep = s := by
  simp [State.microStep, hb]

/-- At the end of the micro-program the step is the response. -/
theorem microStep_of_done {s : State} (h : s.hasLeft []) : s.microStep = s.respond .ok := by
  obtain ⟨hb, all, hp, -, hd⟩ := h
  simp [State.microStep, hb, hp, List.getElem?_eq_none (List.drop_eq_nil_iff.1 hd)]

/-- Before the end it is the micro-operation at `UPC` with its register writes, however that ends. -/
theorem microStep_of_next {m : Micro} {ms : List Micro} {s : State} (h : s.hasLeft (m :: ms)) :
    s.microStep = (m.perform s).state := by
  obtain ⟨hb, all, hp, -, hd⟩ := h
  have hm : all[s.upc]? = some m := by
    rw [← List.head?_drop, hd]
    rfl
  simp only [State.microStep, hb, hp, hm]
  cases m.perform s <;> rfl

/-! ### The invariant (R33 to R36, R190) -/

theorem State.inv.hasLeft {s : State} (h : s.inv) (hb : s.busy = true) :
    ∃ ms, s.hasLeft ms ∧ View.safeRun ms s.view := by
  obtain ⟨-, -, -, hrun⟩ := h
  obtain ⟨all, hp, hu, hs⟩ := hrun hb
  exact ⟨_, ⟨hb, all, hp, hu, rfl⟩, hs⟩

theorem State.inv_of_hasLeft {ms : List Micro} {s : State} (hc : s.cfg.Valid) (hf : s.ctl.fb.wf) (hl : s.hasLeft ms)
    (hs : View.safeRun ms s.view) : s.inv := by
  obtain ⟨hb, all, hp, hu, rfl⟩ := hl
  exact ⟨hc, hf, fun hidle => absurd hidle (by simp [hb]), fun _ => ⟨all, hp, hu, hs⟩⟩

/-- The response after the last step of a safe list, where the framer is at rest. -/
theorem State.respond_inv {s : State} (hc : s.cfg.Valid) (hf : s.ctl.fb.wf) (hr : s.view.atRest) (st : Status) :
    (s.respond st).inv :=
  ⟨hc, hf, fun _ => View.atRest_congr rfl rfl rfl rfl rfl hr, nofun⟩

theorem Waits.inv {s t : State} (h : Waits s t) (hs : s.inv) : t.inv := by
  obtain ⟨tx, bus, n, rfl⟩ := h.same
  exact hs

/-- The head of a safe list leaves a state that meets the invariant, however it ends. -/
theorem Micro.perform_inv {m : Micro} {ms : List Micro} {s : State} (h : s.inv) (hl : s.hasLeft (m :: ms))
    (hs : View.safeRun (m :: ms) s.view) : (m.perform s).state.inv := by
  obtain ⟨hstep, hrun⟩ := hs
  have ⟨hc, hf, _⟩ := h
  have hwf := m.perform_wf s hf
  cases hp : m.perform s with
  | running t =>
    have st := Stepped.of_running hp
    rw [hp] at hwf
    exact State.inv_of_hasLeft (st.cfg ▸ hc) hwf (st.hasLeft hl) (st.view ▸ hrun)
  | ended t => exact m.perform_ended_inv s t hc hf hstep hp
  | blocked t => exact (Waits.of_blocked hp).inv h

theorem microStep_inv {s : State} (h : s.inv) : s.microStep.inv := by
  cases hb : s.busy with
  | false => exact (microStep_of_idle hb).symm ▸ h
  | true =>
    obtain ⟨ms, hl, hs⟩ := h.hasLeft hb
    cases ms with
    | nil =>
      obtain ⟨hc, hf, -, -⟩ := h
      exact (microStep_of_done hl).symm ▸ State.respond_inv hc hf hs .ok
    | cons m ms => exact (microStep_of_next hl).symm ▸ Micro.perform_inv h hl hs

/-- Settles O36: a running request has a safe list left, whose head keeps the invariant however it ends
(`Micro.perform_inv`). -/
theorem microStepKeepsInvariant : Obligations.MicroStepKeepsInvariant :=
  ⟨fun _ => microStep_inv, fun _ _ _ => accepted_inv⟩

/-! ### A request is its steps (R126) -/

/-- Running what is left is so many single steps: one for each micro-operation made, and one for the response. -/
theorem runMicros_eq_microSteps {ms : List Micro} {s : State} (h : s.hasLeft ms) :
    ∃ n, n ≤ ms.length + 1 ∧ microSteps n s = runMicros ms s := by
  induction ms generalizing s with
  | nil => exact ⟨1, le_rfl, microStep_of_done h⟩
  | cons m ms ih =>
    have hstep := microStep_of_next h
    rw [runMicros, runSeq_cons]
    cases hp : m.perform s with
    | running t =>
      rw [hp] at hstep
      obtain ⟨n, hn, e⟩ := ih ((Stepped.of_running hp).hasLeft h)
      exact ⟨n + 1, Nat.succ_le_succ hn, (congrArg (microSteps n) hstep).trans e⟩
    | ended t =>
      rw [hp] at hstep
      exact ⟨1, Nat.le_add_left _ _, hstep⟩
    | blocked t =>
      rw [hp] at hstep
      exact ⟨1, Nat.le_add_left _ _, hstep⟩

/-- Settles O41: exec runs the whole micro-program from the accepted state, a resumed request what is left of it
(`runMicros_eq_microSteps`). -/
theorem requestIsItsMicroSteps : Obligations.RequestIsItsMicroSteps := by
  refine ⟨fun s a i ha => ?_, fun s i hn => ?_, fun s t hb ht => ?_⟩
  · obtain ⟨lat, buf, ms, rfl, hp, he⟩ := exec_accepted s a i ha
    obtain ⟨n, hn, e⟩ := runMicros_eq_microSteps (accept_hasLeft hp buf)
    exact ⟨rfl, rfl, n, ms, hp, hn, he.trans (congrArg _ e.symm)⟩
  · refine (exec_not_accepted s i hn).imp_right ?_
    rintro ⟨x, y, w, h, color, hi, -, he⟩
    exact ⟨⟨x, y, w, h, color, hi⟩, he⟩
  · obtain ⟨ms, hp, hu, rfl⟩ := resume_cases ht
    obtain ⟨n, hn, e⟩ := runMicros_eq_microSteps ⟨hb, ms, hp, hu, rfl⟩
    exact ⟨n, ms, hp, List.length_drop (l := ms) ▸ hn, e⟩

/-! ### `line` and the port calls (R120 to R125) -/

@[simp] theorem State.lineReg_line_same (p : Line) (v : Level) (s : State) :
    (s.line p v).lineReg p = { s.lineReg p with level := v, written := true } := by
  cases p <;> cases v <;> rfl

theorem State.lineReg_line_other {p q : Line} (h : q ≠ p) (v : Level) (s : State) :
    (s.line p v).lineReg q = s.lineReg q := by
  cases p <;> cases q <;> simp_all [State.lineReg]

/-- Settles O31, from what `State.line` does to each field (`State.line_cfg` and its like). -/
theorem lineWriteSetsItsRegister : Obligations.LineWriteSetsItsRegister := by
  intro s p v
  refine ⟨rfl, s.lineReg_line_same p v, fun q hq => s.lineReg_line_other hq v, s.line_trace p v, ?_, ?_⟩
  · cases p <;> rfl
  · simp

/-- Settles O56: the port call of each event, for every line, timeout and delay. -/
theorem eventsAreTheirPortCalls : Obligations.EventsAreTheirPortCalls := by
  intro c
  refine ⟨fun p v => ?line, fun p => ?mode, fun bytes tmo a => ?tx, fun a => rfl, fun a => rfl, fun d => ?delay⟩
  case line => cases p <;> rfl
  case mode => cases p <;> rfl
  case tx => cases tmo <;> rfl
  case delay => cases d <;> rfl

end Sys2Proof.Machine
end

section
/-! # Family 41: the Command Encoder

## SEND_BARE (R141) -/

namespace Sys2Proof.Machine

/-- With no session open, the abort path from an asserted chip-select only releases it and responds (R204). -/
theorem State.abort_of_closed {s : State} (hcs : s.cs.level = false) (hs : s.session = .closed) :
    s.abort = (s.line .cs true).respond .transportError := by
  rw [State.abort, if_neg (by simp [hcs]), ← hs]
  rfl

/-- A bare frame's transfer the transport answers: success and failure both release chip-select next, and they differ in
the status and in what reached the controller only. -/
theorem tx_answered_endBareFrame (cmd : Byte) {s : State} {a : TxAnswer} {rest : List TxReply}
    (hcs : s.cs.level = false) (hs : s.session = .closed) (ht : s.txScript = .answer a :: rest) :
    ∃ t, (s.tx [cmd] .cmd).endBareFrame = (t.line .cs true).respond (if a = .ok 1 then .ok else .transportError) ∧
      t.trace = s.trace ++ [.tx [cmd] .cmd a] ∧ t.view = s.view ∧ t.txScript = rest ∧ t.busScript = s.busScript ∧
      KeptByRun s t := by
  rw [State.tx_of_answer (s.nextTx_cons _ _ ht), List.length_singleton]
  by_cases ha : a = .ok 1
  · rw [if_pos ha, if_pos ha, OpResult.endBareFrame]
    exact ⟨({ s with txScript := rest }.deliver [cmd]).emit (.tx [cmd] .cmd a), rfl, rfl, rfl, rfl, rfl,
      ⟨rfl, rfl, rfl, rfl, rfl, rfl, rfl⟩⟩
  · rw [if_neg ha, if_neg ha, OpResult.endBareFrame]
    exact ⟨({ s with txScript := rest }.deliverPrefix [cmd]).emit (.tx [cmd] .cmd a),
      State.abort_of_closed (by simpa using hcs) (by simpa using hs), rfl, rfl, rfl, rfl,
      ⟨rfl, rfl, rfl, rfl, rfl, rfl, rfl⟩⟩

/-- A bare command frame in command mode ends alike whatever the transport answers: the four events, `CS` released, `DC`
low; the answer shows in its event and in the status (R141). -/
theorem runMicros_bareFrame_answered (cmd : Byte) {s : State} {a : TxAnswer} {rest : List TxReply}
    (hs : s.session = .closed) (ht : s.txScript = .answer a :: rest) :
    ∃ t, runMicros (frame cmd none) s = t.respond (if a = .ok 1 then .ok else .transportError) ∧
      t.trace = s.trace ++ [.line .cs false, .line .dc false, .tx [cmd] .cmd a, .line .cs true] ∧
      t.view = s.view.afterAll (frame cmd none) ∧ t.txScript = rest ∧ t.busScript = s.busScript ∧ KeptByRun s t := by
  obtain ⟨t, hrun, htrace, hview, htx, hbus, k⟩ := tx_answered_endBareFrame cmd
    (s := ((s.line .cs false).advance.line .dc false).advance) rfl hs ht
  refine ⟨t.line .cs true, (runMicros_bareFrame cmd s).trans hrun, ?trace, ?view, htx, hbus,
    ⟨k.cfg, k.status, k.busy, k.lat, k.argBuf, k.responses, k.inputs⟩⟩
  case trace =>
    rw [State.line_trace, htrace]
    simp
  case view => exact congrArg (fun v : View => v.after (plain (.line .cs true))) hview

theorem exec_sendBare_refused (s : State) (cmd : Byte)
    (h : s.lstate ≠ .active ∨ s.session ≠ .closed ∨ cmd ∉ s.cfg.cmdSet) : exec (.sendBare cmd) s = .next s.refuse := by
  refine exec_refused _ s ?_
  rcases h with hl | hs | hc
  · exact .inl (by simp [requestAdmitted, State.commandMode, hl])
  · exact .inl (by simp [requestAdmitted, State.commandMode, hs])
  · exact .inr (by simpa [operandsLegal, commandKnown] using hc)

/-- Settles O14: admitted, the request is one bare frame, which ends alike for every answer
(`runMicros_bareFrame_answered`). -/
theorem sendBareEmitsFourEvents : Obligations.SendBareEmitsFourEvents := by
  intro s cmd a rest
  refine ⟨rfl, fun hb hl hs hc htx => ?_, fun hb h => exec_sendBare_refused s cmd h⟩
  obtain ⟨t, hrun, htrace, hview, htx', hbus, k⟩ := runMicros_bareFrame_answered cmd
    (s := s.accept (s.lat.ofSendBare cmd) s.argBuf) hs htx
  refine ⟨_, (exec_sendBare s cmd hl hs hc).trans (congrArg _ hrun), htrace, rfl, ?_, rfl,
    congrArg View.cs hview, congrArg View.dc hview, congrArg View.rst hview, congrArg View.lstate hview,
    congrArg View.session hview, k.cfg, k.inputs, htx', hbus⟩
  rw [State.respond_responses, k.responses]
  split_ifs <;> rfl

end Sys2Proof.Machine
end

section
/-! # Family 43: the Raster Filler

## STREAM, END_SESSION and FILL_RECT (R160 to R172), and what they make of the reference controller (R66, logs 13, 14) -/

namespace Sys2Proof.Machine

/-! ### The abort path, field by field (R204) -/

theorem State.abort_trace (s : State) :
    s.abort.trace = s.trace ++ (if s.cs.level then [] else [.line .cs true]) := by
  cases h : s.cs.level with
  | true => simp [(s.abort_released h).1]
  | false => simp [(s.abort_asserted h).1]

@[simp] theorem State.abort_dc (s : State) : s.abort.dc = s.dc := by
  unfold State.abort; dsimp only; split_ifs <;> rfl
@[simp] theorem State.abort_rst (s : State) : s.abort.rst = s.rst := by
  unfold State.abort; dsimp only; split_ifs <;> rfl
@[simp] theorem State.abort_cs_oe (s : State) : s.abort.cs.oe = s.cs.oe := by
  unfold State.abort; dsimp only; split_ifs <;> rfl
@[simp] theorem State.abort_txScript (s : State) : s.abort.txScript = s.txScript := by
  unfold State.abort; dsimp only; split_ifs <;> rfl
@[simp] theorem State.abort_busScript (s : State) : s.abort.busScript = s.busScript := by
  unfold State.abort; dsimp only; split_ifs <;> rfl

/-! ### Runs whose calls all succeed -/

/-- What a list of steps whose transfers all succeed makes of the state, the controller included; it leaves these replies
of the transport. -/
structure Succeeded (ms : List Micro) (s t : State) (rest : List TxReply) : Prop where
  trace : t.trace = s.trace ++ okEvents ms s.view
  view : t.view = s.view.afterAll ms
  ctl : t.ctl = Controller.afterAll s.cfg ms s.view s.ctl
  txScript : t.txScript = rest
  busScript : t.busScript = s.busScript
  kept : KeptByRun s t

theorem runMicros_succeeds {ms : List Micro} {s : State} {rest : List TxReply} (hk : ∀ m ∈ ms, m.keepsController)
    (hb : busCalls ms = 0) (ht : s.txScript = okReplies (txLengths ms s.view) ++ rest) :
    ∃ t, runMicros ms s = t.respond .ok ∧ Succeeded ms s t rest := by
  obtain ⟨t, hrun, htrace, hview, htx, hbus, k⟩ := runSeq_ok ms s rest s.busScript ht (by rw [hb]; rfl)
  exact ⟨t, by rw [runMicros, hrun, Progress.finish], htrace, hview, runSeq_running_ctl ms s t hrun hk, htx, hbus, k⟩

/-! ### STREAM (R160) -/

theorem streamProgram_keepsController : ∀ m ∈ streamProgram, m.keepsController := by
  simp [streamProgram, plain, Micro.keepsController]

/-- The bytes STREAM transfers are the latched data. -/
theorem argBytes_accept_stream (s : State) {data : List Byte} (hlen : data.length ≤ 65535) :
    (s.accept (s.lat.ofStream data) data).view.argBytes = data := take_narg data hlen

/-- STREAM whose transfer succeeds: one event, the data received, no register written. -/
theorem exec_stream_ok {s : State} {data : List Byte} {rest : List TxReply} (hlen : data.length ≤ 65535)
    (hs : s.session = .openWrite) (hd : data ≠ []) (ht : s.txScript = .answer (.ok data.length) :: rest) :
    ∃ u, exec (.stream data) s = .next (u.respond .ok) ∧ u.trace = s.trace ++ [txOk .row data] ∧
      u.view = (s.accept (s.lat.ofStream data) data).view ∧
      u.ctl = s.ctl.receive s.cfg s.cs.level s.dc.level data ∧ u.txScript = rest ∧ u.busScript = s.busScript ∧
      KeptByRun (s.accept (s.lat.ofStream data) data) u := by
  have harg := argBytes_accept_stream s hlen
  have hev : okEvents streamProgram (s.accept (s.lat.ofStream data) data).view = [txOk .row data] :=
    congrArg (fun bs => [txOk .row bs]) harg
  have hctl : Controller.afterAll s.cfg streamProgram (s.accept (s.lat.ofStream data) data).view s.ctl =
      s.ctl.receive s.cfg s.cs.level s.dc.level data := congrArg (s.ctl.receive s.cfg s.cs.level s.dc.level) harg
  have htl : txLengths streamProgram (s.accept (s.lat.ofStream data) data).view = [data.length] :=
    congrArg (fun bs => [List.length bs]) harg
  obtain ⟨u, hrun, k⟩ := runMicros_succeeds (s := s.accept (s.lat.ofStream data) data) (rest := rest)
    streamProgram_keepsController rfl (by rw [htl]; exact ht)
  exact ⟨u, (exec_stream s data hs hd).trans (congrArg _ hrun), k.trace.trans (by rw [hev]; rfl), k.view,
    k.ctl.trans hctl, k.txScript, k.busScript, k.kept⟩

/-- STREAM whose transfer fails: its event, and the abort path. -/
theorem exec_stream_fail {s : State} {data : List Byte} {a : TxAnswer} {rest : List TxReply}
    (hlen : data.length ≤ 65535) (hs : s.session = .openWrite) (hd : data ≠ []) (ha : a ≠ .ok data.length)
    (ht : s.txScript = .answer a :: rest) :
    ∃ u, exec (.stream data) s = .next u.abort ∧ u.trace = s.trace ++ [.tx data .row a] ∧
      u.view = (s.accept (s.lat.ofStream data) data).view ∧ u.txScript = rest ∧ u.busScript = s.busScript ∧
      KeptByRun (s.accept (s.lat.ofStream data) data) u := by
  have hread : TxSource.argBuf.read (s.accept (s.lat.ofStream data) data) = data := argBytes_accept_stream s hlen
  obtain ⟨u, hu, htrace, hview, htx, hbus, k⟩ := Micro.perform_fail (plain (.tx .argBuf .row)) .argBuf .row rfl
    (s.accept (s.lat.ofStream data) data) a rest (by rw [hread]; exact ha) ht
  rw [hread] at htrace
  have hrun : runMicros streamProgram (s.accept (s.lat.ofStream data) data) = u.abort := by
    rw [streamProgram, runMicros, runSeq_cons, hu]
    rfl
  exact ⟨u, (exec_stream s data hs hd).trans (congrArg _ hrun), htrace, hview, htx, hbus, k⟩

theorem exec_stream_refused {s : State} {data : List Byte} (h : s.session ≠ .openWrite ∨ data = []) :
    exec (.stream data) s = .next s.refuse := by
  refine exec_refused _ s ?_
  rcases h with hs | rfl
  · exact .inl (by simpa [requestAdmitted] using hs)
  · exact .inr rfl

theorem encode_stream {data : List Byte} (hlen : data.length ≤ 65535) :
    encode (.stream data) =
      [0x21, BitVec.ofNat 8 (data.length / 256), BitVec.ofNat 8 (data.length % 256)] ++ data := by
  have hlo : BitVec.ofNat 8 data.length = BitVec.ofNat 8 (data.length % 256) := by
    apply BitVec.eq_of_toNat_eq
    simp
  rw [encode, be16, hi, lo, toNat_narg hlen, hlo]
  rfl

/-- Settles O17: the one transfer succeeds (`exec_stream_ok`), or it fails and the abort path is taken
(`exec_stream_fail`). -/
theorem streamSendsOneRowTransfer : Obligations.StreamSendsOneRowTransfer := by
  intro s data a rest hlen
  refine ⟨encode_stream hlen, fun hb hs hd htx => ?_, fun hb h => exec_stream_refused h⟩
  by_cases ha : a = .ok data.length
  · subst ha
    obtain ⟨u, he, htrace, hview, -, htx', hbus, k⟩ := exec_stream_ok hlen hs hd htx
    exact ⟨_, he, rfl, congrArg View.dc hview, congrArg View.rst hview, congrArg View.lstate hview, k.cfg, k.inputs,
      htx', hbus, fun _ => ⟨htrace, rfl, congrArg (· ++ _) k.responses, (congrArg View.session hview).trans hs,
        congrArg View.cs hview⟩, fun hne => absurd rfl hne⟩
  · obtain ⟨u, he, htrace, hview, htx', hbus, k⟩ := exec_stream_fail hlen hs hd ha htx
    have hcs : u.cs = s.cs := congrArg View.cs hview
    have htrace' : u.abort.trace = s.trace ++ [.tx data .row a] ++ (if s.cs.level then [] else [.line .cs true]) := by
      rw [u.abort_trace, htrace, hcs]
    have hresp : u.abort.responses = s.responses ++ [0x01] :=
      u.abort_responses.trans (congrArg (· ++ _) k.responses)
    exact ⟨_, he, u.abort_busy, u.abort_dc.trans (congrArg View.dc hview), u.abort_rst.trans (congrArg View.rst hview),
      u.abort_lstate.trans (congrArg View.lstate hview), u.abort_cfg.trans k.cfg, u.abort_inputs.trans k.inputs,
      u.abort_txScript.trans htx', u.abort_busScript.trans hbus, fun h => absurd h ha,
      fun _ => ⟨htrace', u.abort_status, hresp, u.abort_session, u.abort_cs_level,
        u.abort_cs_oe.trans (congrArg LineReg.oe hcs)⟩⟩

/-! ### END_SESSION (R163) -/

/-- END_SESSION with a session open: chip-select released, the session closed, `OK`; it makes no transport call. -/
theorem exec_endSession_eq {s : State} (hs : s.session ≠ .closed) :
    exec .endSession s = .next
      ((((s.accept s.lat.ofEndSession s.argBuf).line .cs true).write (.session .closed)).advance.respond .ok) :=
  exec_endSession s hs

/-- Settles O18, from the one state END_SESSION answers (`exec_endSession_eq`). -/
theorem endSessionReleasesChipSelect : Obligations.EndSessionReleasesChipSelect := by
  refine ⟨rfl, fun s hb => ⟨fun hs => ?_, fun hs => ?_⟩⟩
  · exact ⟨_, exec_endSession_eq hs, rfl, rfl, rfl, rfl, rfl, rfl, rfl, rfl, rfl, rfl, rfl, rfl, rfl⟩
  · exact exec_refused .endSession s (.inl (by simp [requestAdmitted, hs]))

/-! ### The clip (R165 to R167) -/

/-- Nothing to draw, on any panel: past a bound or of no size (R165). -/
theorem clip_eq_none_of_degenerate {c : Config} {x y w h : Word16}
    (hd : c.width ≤ x.toNat ∨ c.height ≤ y.toNat ∨ w = 0 ∨ h = 0) : clip c x y w h = none := by
  have bound : ∀ limit start, clipBound limit start 0 < start.toNat := by
    intro limit start
    have zero : (0 : Word16).toNat = 0 := rfl
    rw [clipBound, zero]
    omega
  unfold clip
  rcases hd with hx | hy | rfl | rfl
  · rw [if_pos (.inl hx)]
  · rw [if_pos (.inr hy)]
  · rw [if_pos (c := _ ∨ _) (.inl (bound _ x)), ite_self]
  · rw [if_pos (c := _ ∨ _) (.inr (bound _ y)), ite_self]

/-- On a panel R6 allows, only those rectangles have nothing to draw (R165, R167). -/
theorem clip_eq_none_iff_degenerate {c : Config} (hd : c.DimsOk) {x y w h : Word16} :
    clip c x y w h = none ↔ c.width ≤ x.toNat ∨ c.height ≤ y.toNat ∨ w = 0 ∨ h = 0 := by
  have zero : ∀ v : Word16, v.toNat = 0 ↔ v = 0 := fun v => BitVec.toNat_inj (y := 0)
  rw [clip_eq_none_iff c hd, zero w, zero h]

/-- Settles O20: the clip leaves nothing, so behind the gate only the answer is left. -/
theorem degenerateFillIsSilent : Obligations.DegenerateFillIsSilent := by
  intro s x y w h color hb hl hs hd
  rw [exec_fillRect s x y w h color hl hs, fillBody, clip_eq_none_of_degenerate hd]
  rfl

/-- The clipped rectangle is a region of the panel that starts where the rectangle does. -/
theorem clipsTo.region {c : Config} {x y w h x2 y2 : Word16} (hc : clipsTo c x y w h x2 y2) :
    x.toNat ≤ x2.toNat ∧ x2.toNat < c.width ∧ y.toNat ≤ y2.toNat ∧ y2.toNat < c.height := by
  obtain ⟨hx, hy, hw, hh, hx2, hy2⟩ := hc
  omega

/-- The pixels of the clip are those of the clipped region. -/
theorem clipsTo.inClip_iff {c : Config} {x y w h x2 y2 : Word16} (hc : clipsTo c x y w h x2 y2) (col row : Nat) :
    inClip c x y w h col row ↔
      x.toNat ≤ col ∧ col ≤ x2.toNat ∧ y.toNat ≤ row ∧ row ≤ y2.toNat := by
  obtain ⟨hx, hy, hw, hh, hx2, hy2⟩ := hc
  unfold inClip
  omega

/-- Settles O21, from what the clip is when it is empty (`clip_eq_none_iff_degenerate`) and when it is not
(`clip_eq_some_iff`). -/
theorem clipHasNoWrapAround : Obligations.ClipHasNoWrapAround := by
  intro c x y w h hd
  refine ⟨clip_eq_none_iff_degenerate hd, fun x2 y2 hclip => ?_⟩
  have hc := (clip_eq_some_iff c hd x y w h x2 y2).1 hclip
  obtain ⟨hxx, hxw, hyy, hyh⟩ := hc.region
  obtain ⟨hx, hy, hw, hh, hx2, hy2⟩ := hc
  rw [length_rowBytes, span]
  omega

/-! ### FILL_RECT that draws (R166, R168, R171) -/

theorem window_keepsController (c : Config) (x1 y1 x2 y2 : Word16) (dir : Dir) :
    ∀ m ∈ window c x1 y1 x2 y2 dir, m.keepsController := by
  simp [window, thenWrite, plain, Micro.keepsController]

theorem fillProgram_keepsController (c : Config) (lat : Latches) : ∀ m ∈ fillProgram c lat, m.keepsController := by
  simp only [fillProgram, endSessionProgram, List.mem_append, List.mem_replicate, List.mem_singleton]
  rintro m ((hm | ⟨-, rfl⟩) | rfl)
  · revert m
    simp [window, thenWrite, plain, Micro.keepsController]
  · simp [plain, Micro.keepsController]
  · simp [Micro.keepsController]

/-- FILL_RECT with something to draw runs its micro-program for the clipped region. -/
theorem fillBody_of_clip {s : State} {x y w h x2 y2 : Word16} (color : Word16)
    (hclip : clip s.cfg x y w h = some (x2, y2)) :
    fillBody x y w h color s = runMicros (fillProgram s.cfg (s.lat.ofFillRect x y w h color x2 y2))
      (s.accept (s.lat.ofFillRect x y w h color x2 y2) s.argBuf) := by
  rw [fillBody, hclip]

/-! ### The controller while a rectangle is drawn -/

theorem Controller.afterAll_thenWrite (g : Config) (w : RegWrite) (ms : List Micro) (v : View) (c : Controller) :
    Controller.afterAll g (thenWrite w ms) v c = Controller.afterAll g ms v c := by
  rcases List.eq_nil_or_concat' ms with rfl | ⟨zs, m, rfl⟩
  · rfl
  · simp only [thenWrite_append_singleton, Controller.afterAll_append, Controller.afterAll]

/-- The view when a fill's rows begin: a session open for writing, one row of the colour in `ROWBUF` (R166 step 4). -/
def View.fillOpened (lat : Latches) (v : View) : View :=
  { v with
    session := .openWrite
    cs := { v.cs with level := false, written := true }
    dc := { v.dc with level := true, written := true }
    rowBuf := rowBytes lat.x1 lat.x2 lat.color }

theorem View.afterAll_fillWindow (c : Config) (lat : Latches) (v : View) :
    v.afterAll (thenWrite (.rowBuf (rowBytes lat.x1 lat.x2 lat.color))
      (window c lat.x1 lat.y1 lat.x2 lat.y2 .write)) = v.fillOpened lat := rfl

/-- A fill leaves the controller its window frame and its rows leave, deselected. -/
theorem Controller.afterAll_fillProgram (g : Config) (lat : Latches) (v : View) (c : Controller) :
    Controller.afterAll g (fillProgram g lat) v c =
      (Controller.afterAll g (List.replicate (span lat.y1 lat.y2) (plain (.tx .rowBuf .row))) (v.fillOpened lat)
        (Controller.afterAll g (window g lat.x1 lat.y1 lat.x2 lat.y2 .write) v c)).deselect := by
  rw [fillProgram, Controller.afterAll_append, Controller.afterAll_append, Controller.afterAll_thenWrite,
    View.afterAll_fillWindow]
  rfl

/-- The row transfers of a fill give the controller the row again and again. -/
theorem Controller.afterAll_rows_iterate (g : Config) (n : Nat) (v : View) (c : Controller) :
    Controller.afterAll g (List.replicate n (plain (.tx .rowBuf .row))) v c =
      (fun d : Controller => d.receive g v.cs.level v.dc.level v.rowBuf)^[n] c := by
  induction n generalizing c with
  | zero => rfl
  | succ n ih => exact ih _

/-- FILL_RECT that draws, when every transfer succeeds: its events, the registers it ends with, and the controller that
has received the window frame and then the row once per clipped row. -/
theorem exec_fillRect_ok {s : State} {x y w h x2 y2 : Word16} {rest : List TxReply} (color : Word16)
    (hl : s.lstate = .active) (hs : s.session = .closed) (hc : clipsTo s.cfg x y w h x2 y2)
    (ht : s.txScript = okReplies (fillLengths x y x2 y2) ++ rest) :
    ∃ u, exec (.fillRect x y w h color) s = .next (u.respond .ok) ∧
      u.trace = s.trace ++ fillEvents s.cfg x y x2 y2 color ∧
      (u.lstate = s.lstate ∧ u.session = .closed ∧ u.cs = ⟨true, s.cs.oe, true⟩ ∧ u.dc = ⟨true, s.dc.oe, true⟩ ∧
        u.rst = s.rst) ∧
      u.ctl = ((fun d : Controller => d.receive s.cfg false true (rowBytes x x2 color))^[span y y2]
        (Controller.afterAll s.cfg (window s.cfg x y x2 y2 .write) s.view s.ctl)).deselect ∧
      u.txScript = rest ∧ u.busScript = s.busScript ∧
      KeptByRun (s.accept (s.lat.ofFillRect x y w h color x2 y2) s.argBuf) u := by
  obtain ⟨u, hrun, k⟩ := runMicros_succeeds (s := s.accept (s.lat.ofFillRect x y w h color x2 y2) s.argBuf)
    (rest := rest) (fillProgram_keepsController s.cfg (s.lat.ofFillRect x y w h color x2 y2))
    (busCalls_fillProgram _ _) (by rw [txLengths_fillProgram]; exact ht)
  have hbody := fillBody_of_clip color (clip_eq_some s.cfg x y w h x2 y2 hc)
  have hview := k.view.trans (View.afterAll_fillProgram _ _ _)
  refine ⟨u, (exec_fillRect s x y w h color hl hs).trans (congrArg _ (hbody.trans hrun)),
    k.trace.trans (congrArg _ (okEvents_fillProgram _ _ _)),
    ⟨congrArg View.lstate hview, congrArg View.session hview, congrArg View.cs hview, congrArg View.dc hview,
      congrArg View.rst hview⟩, k.ctl.trans ?_, k.txScript, k.busScript, k.kept⟩
  rw [State.accept_cfg, Controller.afterAll_fillProgram, Controller.afterAll_rows_iterate]
  rfl

theorem length_colourRow (n : Nat) (color : Word16) : (colourRow n color).length = 2 * n := by
  simp [colourRow, Nat.mul_comm]

/-- Settles O19: the events and registers of the micro-program whose calls all succeed. -/
theorem fillRectDrawsClippedRows : Obligations.FillRectDrawsClippedRows := by
  intro s x y w h color x2 y2 rest hb hl hs hx hy hw hh hx2 hy2 htx
  obtain ⟨u, he, htrace, ⟨hlstate, hsession, hcs, hdc, hrst⟩, -, htx', hbus, k⟩ :=
    exec_fillRect_ok color hl hs ⟨hx, hy, hw, hh, hx2, hy2⟩ htx
  refine ⟨_, he, ?_, rfl, congrArg (· ++ _) k.responses, rfl, hsession, hcs, hdc, hrst, hlstate, k.cfg, k.inputs, htx',
    hbus⟩
  rw [State.respond_trace, htrace, fillEvents, txOk, length_colourRow, ← List.append_assoc, ← List.append_assoc]
  rfl

/-! ### FILL_RECT is SET_WINDOW, one STREAM per row, END_SESSION (R170) -/

/-- What `n` successful STREAM requests of one row have done. -/
structure RowsSent (n : Nat) (row : List Byte) (s t : State) : Prop where
  trace : t.trace = s.trace ++ List.replicate n (txOk .row row)
  ctl : t.ctl = (fun d : Controller => d.receive s.cfg s.cs.level s.dc.level row)^[n] s.ctl
  cfg : t.cfg = s.cfg
  lstate : t.lstate = s.lstate
  session : t.session = s.session
  wires : t.wires = s.wires

theorem RowsSent.refl (row : List Byte) (s : State) : RowsSent 0 row s s :=
  ⟨(List.append_nil _).symm, rfl, rfl, rfl, rfl, rfl⟩

theorem RowsSent.cons {n : Nat} {row : List Byte} {s t u : State} (h : RowsSent 1 row s t) (k : RowsSent n row t u) :
    RowsSent (n + 1) row s u where
  trace := by rw [k.trace, h.trace, List.append_assoc, ← List.replicate_add, Nat.add_comm]
  ctl := by
    have hcs : t.cs = s.cs := congrArg Wires.cs h.wires
    have hdc : t.dc = s.dc := congrArg Wires.dc h.wires
    rw [k.ctl, h.ctl, h.cfg, hcs, hdc]
    rfl
  cfg := k.cfg.trans h.cfg
  lstate := k.lstate.trans h.lstate
  session := k.session.trans h.session
  wires := k.wires.trans h.wires

theorem exec_stream_rowsSent {s : State} {row : List Byte} {rest : List TxReply} (hlen : row.length ≤ 65535)
    (hs : s.session = .openWrite) (hne : row ≠ []) (ht : s.txScript = .answer (.ok row.length) :: rest) :
    ∃ t, exec (.stream row) s = .next t ∧ RowsSent 1 row s t ∧ t.txScript = rest := by
  obtain ⟨u, he, htrace, hview, hctl, htx, -, k⟩ := exec_stream_ok hlen hs hne ht
  exact ⟨_, he, ⟨htrace, hctl, k.cfg, congrArg View.lstate hview, congrArg View.session hview,
    congrArg View.wires hview⟩, htx⟩

theorem streamRows_ok {row : List Byte} {rest : List TxReply} (n : Nat) {s : State} (hlen : row.length ≤ 65535)
    (hs : s.session = .openWrite) (hne : row ≠ [])
    (ht : s.txScript = okReplies (List.replicate n row.length) ++ rest) :
    ∃ t, streamRows n row s = .next t ∧ RowsSent n row s t ∧ t.txScript = rest := by
  induction n generalizing s with
  | zero => exact ⟨s, rfl, .refl row s, ht⟩
  | succ n ih =>
    obtain ⟨t, he, h, htx⟩ := exec_stream_rowsSent hlen hs hne ht
    obtain ⟨u, hrows, k, hrest⟩ := ih (h.session.trans hs) htx
    exact ⟨u, by rw [streamRows, he]; exact hrows, h.cons k, hrest⟩

/-- SET_WINDOW for writing, when every transfer succeeds: its events, the registers it ends with, and the controller that
has received the window frame. -/
theorem exec_setWindow_ok {s : State} {x1 y1 x2 y2 : Word16} {rest : List TxReply} (hl : s.lstate = .active)
    (hs : s.session = .closed)
    (hr : x1.toNat ≤ x2.toNat ∧ x2.toNat < s.cfg.width ∧ y1.toNat ≤ y2.toNat ∧ y2.toNat < s.cfg.height)
    (ht : s.txScript = okReplies windowLengths ++ rest) :
    ∃ u : State, exec (.setWindow .write x1 y1 x2 y2) s = .next (u.respond .ok) ∧
      u.trace = s.trace ++ windowFrame s.cfg x1 y1 x2 y2 .write ∧
      (u.lstate = s.lstate ∧ u.session = .openWrite ∧ u.cs = ⟨false, s.cs.oe, true⟩ ∧ u.dc = ⟨true, s.dc.oe, true⟩ ∧
        u.rst = s.rst) ∧
      u.ctl = Controller.afterAll s.cfg (window s.cfg x1 y1 x2 y2 .write) s.view s.ctl ∧
      u.txScript = rest ∧ u.cfg = s.cfg := by
  obtain ⟨u, hrun, k⟩ := runMicros_succeeds (s := s.accept (s.lat.ofSetWindow .write x1 y1 x2 y2) s.argBuf)
    (rest := rest) (window_keepsController s.cfg x1 y1 x2 y2 .write) rfl ht
  have hview := k.view.trans (View.afterAll_window _ _ _ _ _ _ _)
  exact ⟨u, (exec_setWindow s .write x1 y1 x2 y2 hl hs hr).trans (congrArg _ hrun),
    k.trace.trans (congrArg _ (okEvents_window _ _ _ _ _ _ _)),
    ⟨congrArg View.lstate hview, congrArg View.session hview, congrArg View.cs hview, congrArg View.dc hview,
      congrArg View.rst hview⟩, k.ctl, k.txScript, k.kept.cfg⟩

/-- Settles O22: the window frame is SET_WINDOW's, the rows of the fill are the rows the STREAM requests send
(`streamRows_ok`), and END_SESSION releases chip-select as the fill does. -/
theorem fillEqualsWindowStreamsEnd : Obligations.FillEqualsWindowStreamsEnd := by
  intro s x y w h color x2 y2 rest hb hl hs hc hfit htx
  set row := colourRow (x2.toNat - x.toNat + 1) color
  have hlen : row.length = 2 * (x2.toNat - x.toNat + 1) := length_colourRow _ color
  have hne : row ≠ [] := List.ne_nil_of_length_pos (by omega)
  obtain ⟨t, het, ttrace, ⟨tlstate, tsession, tcs, tdc, trst⟩, tctl, ttx, -, -⟩ := exec_fillRect_ok color hl hs hc htx
  rw [fillLengths, okReplies_append, List.append_assoc, ← hlen] at htx
  obtain ⟨u, heu, utrace, ⟨ulstate, usession, ucs, udc, urst⟩, uctl, utx, ucfg⟩ := exec_setWindow_ok hl hs hc.region htx
  obtain ⟨v, hev, k, vtx⟩ := streamRows_ok (y2.toNat - y.toNat + 1) (s := u.respond .ok) (by omega) usession hne utx
  have vcs : v.cs = ⟨false, s.cs.oe, true⟩ := (congrArg Wires.cs k.wires).trans ucs
  have vdc : v.dc = ⟨true, s.dc.oe, true⟩ := (congrArg Wires.dc k.wires).trans udc
  have vrst : v.rst = s.rst := (congrArg Wires.rst k.wires).trans urst
  have vopen : v.session ≠ .closed := by
    rw [k.session, State.respond_session, usession]
    simp
  refine ⟨_, _, v, _, het, heu, hev, exec_endSession_eq vopen, ?trace, rfl,
    (k.lstate.trans ulstate).trans tlstate.symm, tsession.symm, ?chipSelect, vdc.trans tdc.symm, vrst.trans trst.symm,
    vtx.trans ttx.symm, ?ctl⟩
  case trace =>
    have vtrace := congrArg (· ++ [Event.line .cs true]) k.trace
    refine vtrace.trans ?_
    rw [State.respond_trace, State.respond_trace, utrace, ttrace, fillEvents]
    simp only [List.append_assoc]
    rfl
  case chipSelect =>
    rw [State.respond_cs, State.respond_cs, tcs, ← congrArg LineReg.oe vcs]
    rfl
  case ctl =>
    have vctl := congrArg Controller.deselect k.ctl
    refine vctl.trans ?_
    rw [State.respond_ctl, State.respond_ctl, State.respond_cfg, State.respond_cs, State.respond_dc, uctl, ucfg, ucs,
      udc, tctl]
    rfl

/-! ### The pixels of the clipped rectangle (R169) -/

/-- The controller once the window frame of a fill has been received: at the first pixel of the region (R66). -/
def Controller.windowed (x1 y1 x2 y2 : Word16) (c : Controller) : Controller :=
  { c with cx1 := x1, cx2 := x2, py1 := y1, py2 := y2, op := .ramwr, params := [], k := 0 }

theorem Controller.afterAll_fillWindow {g : Config} (hg : g.OpcodesOk) (x1 y1 x2 y2 : Word16) (v : View)
    (c : Controller) : Controller.afterAll g (window g x1 y1 x2 y2 .write) v c = c.windowed x1 y1 x2 y2 := by
  rw [← Controller.afterAll_thenWrite g (.rowBuf [])]
  exact Controller.afterAll_window g hg x1 y1 x2 y2 v c []

theorem Controller.windowed_inPanel {g : Config} {x y w h x2 y2 : Word16} (hc : clipsTo g x y w h x2 y2)
    (c : Controller) : (c.windowed x y x2 y2).InPanel g := by
  obtain ⟨hx, hxw, hy, hyh⟩ := hc.region
  exact ⟨hx, hxw, hy, hyh⟩

/-- The rows of a fill hold as many pixels as the region. -/
theorem Controller.windowed_area {g : Config} {x y w h x2 y2 : Word16} (hc : clipsTo g x y w h x2 y2)
    (c : Controller) :
    span y y2 * span x x2 = (c.windowed x y x2 y2).columns * (c.windowed x y x2 y2).rows := by
  obtain ⟨hx, -, hy, -⟩ := hc.region
  have hcols : (c.windowed x y x2 y2).columns = span x x2 := Nat.sub_add_comm hx
  have hrows : (c.windowed x y x2 y2).rows = span y y2 := Nat.sub_add_comm hy
  rw [hcols, hrows, Nat.mul_comm]

/-- The steps of a fill colour every pixel of the clip: the rows hold as many pixels as the region has
(`Controller.afterAll_rows`), and `ORDER` reaches each of them (`Controller.order_surjective`). -/
theorem Controller.pixel_afterAll_fillProgram {g : Config} (hv : g.Valid) {x y w h x2 y2 : Word16} (color : Word16)
    {lat : Latches} (hc : clipsTo g x y w h x2 y2) (v : View) (c : Controller) {col row : Nat}
    (hin : inClip g x y w h col row) :
    (Controller.afterAll g (fillProgram g (lat.ofFillRect x y w h color x2 y2)) v c).pixel col row = some color := by
  obtain ⟨⟨-, hw, -, -⟩, -, -, -, hop, -, hscan⟩ := hv
  rw [Controller.afterAll_fillProgram, Controller.afterAll_fillWindow hop]
  set d := c.windowed x y x2 y2
  have hpanel : d.InPanel g := Controller.windowed_inPanel hc c
  have harea : span y y2 * span x x2 = d.columns * d.rows := Controller.windowed_area hc c
  have coloured := Controller.afterAll_rows g hscan hw (span y y2) (span x x2) color
    (v.fillOpened (lat.ofFillRect x y w h color x2 y2)) rfl rfl rfl d hpanel rfl rfl ((Nat.zero_add _).trans harea).le
  obtain ⟨h1, h2, h3, h4⟩ := (hc.inClip_iff col row).1 hin
  obtain ⟨k, hk, hord⟩ := d.order_surjective g hscan hpanel.x hpanel.y col row h1 h2 h3 h4
  have new := coloured.new k (by rw [harea]; exact hk)
  have first : d.k + k = k := Nat.zero_add k
  rw [first, hord] at new
  exact new

/-- Settles O23: the answer `OK` means that every step completed, so the controller is the one those steps leave
(`Controller.pixel_afterAll_fillProgram`). -/
theorem fillSetsEveryPixelOfTheClip : Obligations.FillSetsEveryPixelOfTheClip := by
  intro s t x y w h color hv hb hl hs he ht hok col row hin
  have ⟨hd, _⟩ := hv
  rw [exec_fillRect s x y w h color hl hs] at he
  obtain rfl := Host.Outcome.next.inj he
  cases hclip : clip s.cfg x y w h with
  | none =>
    rw [clip_eq_none_iff s.cfg hd] at hclip
    unfold inClip at hin
    omega
  | some corner =>
    obtain ⟨x2, y2⟩ := corner
    have hc := (clip_eq_some_iff s.cfg hd x y w h x2 y2).1 hclip
    rw [fillBody_of_clip color hclip] at ht hok ⊢
    rw [runMicros_ctl_of_ok (fillProgram_keepsController _ _) rfl ht hok]
    exact Controller.pixel_afterAll_fillProgram hv color hc _ s.ctl hin

/-! ### The bytes outside the clipped rectangle (R169) -/

theorem Controller.spares_append {g : Config} {a : Nat} {xs ys : List Micro} {v : View} {c : Controller} :
    c.spares g a (xs ++ ys) v ↔
      c.spares g a xs v ∧ (Controller.afterAll g xs v c).spares g a ys (v.afterAll xs) := by
  induction xs generalizing v c with
  | nil => exact iff_of_eq (true_and _).symm
  | cons m ms ih => exact (and_congr_right fun _ => ih).trans and_assoc.symm

theorem Controller.spares_thenWrite {g : Config} {a : Nat} (w : RegWrite) {ms : List Micro} {v : View}
    {c : Controller} : c.spares g a (thenWrite w ms) v ↔ c.spares g a ms v := by
  rcases List.eq_nil_or_concat' ms with rfl | ⟨zs, m, rfl⟩
  · rfl
  · simp only [thenWrite_append_singleton, Controller.spares_append, Controller.spares]

/-- The byte at this address belongs to no pixel of the controller's window. -/
def Controller.outside (c : Controller) (a : Nat) : Prop :=
  ∀ col row, c.cx1.toNat ≤ col → col ≤ c.cx2.toNat → c.py1.toNat ≤ row → row ≤ c.py2.toNat →
    a ≠ pixelAddress col row ∧ a ≠ pixelAddress col row + 1

/-- Some or all of a row's bytes, with room for the row in the window, spare every byte outside the window. -/
theorem Controller.receive_rowPrefix {g : Config} (hg : g.ScanOk) {n a : Nat} {color : Word16} {c : Controller}
    (hp : c.InPanel g) (ho : c.op = .ramwr) (hq : c.params = []) (hk : c.k + n ≤ c.columns * c.rows)
    (ha : c.outside a) {bs : List Byte} (hbs : bs <+: rep n (be16 color)) :
    (c.receive g false true bs).fb.read a = c.fb.read a := by
  have hlen : bs.length ≤ n * 2 := hbs.length_le.trans_eq (length_rep n (be16 color))
  refine (c.receive_ramwr g bs ho n (by rw [if_pos hq]; omega) hk).2.2 a fun j hj => ?_
  obtain ⟨h1, h2, h3, h4⟩ := c.order_mem g hg (c.k + j) hp.x hp.y (by omega)
  exact ha _ _ h1 h2 h3 h4

theorem Controller.Coloured.area {g : Config} {n : Nat} {color : Word16} {c d : Controller}
    (h : Controller.Coloured g n color c d) : d.columns * d.rows = c.columns * c.rows := by
  rw [Controller.columns, Controller.rows, h.cx1, h.cx2, h.py1, h.py2]
  rfl

theorem Controller.Coloured.inPanel {g : Config} {n : Nat} {color : Word16} {c d : Controller}
    (h : Controller.Coloured g n color c d) (hp : c.InPanel g) : d.InPanel g where
  x := by rw [h.cx1, h.cx2]; exact hp.x
  xw := by rw [h.cx2]; exact hp.xw
  y := by rw [h.py1, h.py2]; exact hp.y
  yh := by rw [h.py2]; exact hp.yh

theorem Controller.Coloured.outside {g : Config} {n a : Nat} {color : Word16} {c d : Controller}
    (h : Controller.Coloured g n color c d) (ha : c.outside a) : d.outside a := by
  unfold Controller.outside
  rw [h.cx1, h.cx2, h.py1, h.py2]
  exact ha

/-- The row transfers of a fill spare every byte outside the window, wherever they stop. -/
theorem rows_spares {g : Config} (hg : g.ScanOk) (hw : g.width ≤ 65535) {n a : Nat} {color : Word16} {v : View}
    (hcs : v.cs.level = false) (hdc : v.dc.level = true) (hrow : v.rowBuf = rep n (be16 color)) (r : Nat)
    {c : Controller} (hp : c.InPanel g) (ho : c.op = .ramwr) (hq : c.params = [])
    (hk : c.k + r * n ≤ c.columns * c.rows) (ha : c.outside a) :
    c.spares g a (List.replicate r (plain (.tx .rowBuf .row))) v := by
  induction r generalizing c with
  | zero => trivial
  | succ r ih =>
    rw [Nat.succ_mul] at hk
    have coloured := c.receive_row g hg n color hp ho hq (by omega) hw
    have hafter : c.afterOp g v (.tx .rowBuf .row) = c.receive g false true (rep n (be16 color)) := by
      rw [← hrow, ← hcs, ← hdc]
      rfl
    have tail := ih (coloured.inPanel hp) coloured.op coloured.params
      (by rw [coloured.area, coloured.k]; omega) (coloured.outside ha)
    rw [← hafter] at tail
    refine ⟨fun bs hbs => ?_, tail⟩
    rw [hcs, hdc]
    refine Controller.receive_rowPrefix hg (n := n) (color := color) hp ho hq (by omega) ha ?_
    rw [← hrow]
    exact hbs

/-- A fill spares every byte outside the clipped region: its window frame stores nothing, its rows stay inside. -/
theorem fillProgram_spares {g : Config} (hv : g.Valid) {x y w h x2 y2 color : Word16} {lat : Latches}
    (hc : clipsTo g x y w h x2 y2) {a : Nat} (v : View) (c : Controller) (ha : (c.windowed x y x2 y2).outside a) :
    c.spares g a (fillProgram g (lat.ofFillRect x y w h color x2 y2)) v := by
  obtain ⟨⟨-, hw, -, -⟩, -, -, -, hop, -, hscan⟩ := hv
  rw [fillProgram, List.append_assoc, Controller.spares_append, Controller.spares_append, Controller.spares_thenWrite,
    Controller.afterAll_thenWrite, View.afterAll_fillWindow, Controller.afterAll_fillWindow hop]
  exact ⟨window_spares hop a _ _ _ _ _ _ c,
    rows_spares hscan hw (color := color) rfl rfl rfl _ (Controller.windowed_inPanel hc c) rfl rfl
      ((Nat.zero_add _).trans (Controller.windowed_area hc c)).le ha,
    endSessionProgram_spares g a _ _⟩

/-- Settles O24: a fill that draws spares the bytes outside the clip (`fillProgram_spares`), and with nothing to draw
the controller is left alone. -/
theorem fillTouchesNothingOutsideTheClip : Obligations.FillTouchesNothingOutsideTheClip := by
  intro s t x y w h color hv hb he a ha
  have ⟨hd, _⟩ := hv
  cases hclip : clip s.cfg x y w h with
  | none =>
    rw [exec_fillRect_ctl_of_no_drawing hd he (.inr (.inr ((clip_eq_none_iff_degenerate hd).1 hclip)))]
  | some corner =>
    obtain ⟨x2, y2⟩ := corner
    have hc := (clip_eq_some_iff s.cfg hd x y w h x2 y2).1 hclip
    have hx : exec (.fillRect x y w h color) s = _ := congrArg
      (fun act => Host.Outcome.next (s.gate (.fillRect x y w h color) act)) (fillBody_of_clip color hclip)
    exact exec_byte hx he (fillProgram_spares hv hc _ s.ctl fun col row h1 h2 h3 h4 =>
      ha col row ((hc.inClip_iff col row).2 ⟨h1, h2, h3, h4⟩))

end Sys2Proof.Machine
end

section
/-! # Family 44: the Bring-up Sequencer

## INITIALIZE and CLEANUP: their events, their answers and their failures (R180 to R189) -/

namespace Sys2Proof.Machine

/-! ### INITIALIZE that succeeds (R180 to R185, R189) -/

theorem length_commandFrame (cmd : Byte) (args : List Byte) :
    (commandFrame cmd args).length = if args = [] then 4 else 6 := by
  rw [commandFrame]
  split_ifs <;> rfl

theorem length_tableEvents (table : List InitEntry) :
    (tableEvents table).length = (table.map fun e => if e.args = [] then 4 else 6).sum := by
  simp only [tableEvents, List.length_flatMap, length_commandFrame]

/-- Twelve events before the table and ten after it. -/
theorem length_bringupEvents (c : Config) :
    (bringupEvents c).length = 22 + (c.initTable.map fun e => if e.args = [] then 4 else 6).sum := by
  rw [bringupEvents, List.length_append, List.length_append, length_tableEvents,
    show bringupHead.length = 12 from rfl, show (bringupTail c).length = 10 from rfl]
  omega

/-- Settles O25: the micro-program run with every call succeeding, by its events and its end (`initialiseProgram_spec`). -/
theorem initializeBringsPanelUp : Obligations.InitializeBringsPanelUp := by
  intro s rest busRest hb hl hs hbus htx
  obtain ⟨hevents, hlengths, hcalls, hend⟩ :=
    initialiseProgram_spec s.cfg (s.accept s.lat.ofInitialise s.argBuf).view
  obtain ⟨t, hrun, htrace, hview, htx', hbus', k⟩ := runMicros_ok (initialiseProgram s.cfg)
    (s.accept s.lat.ofInitialise s.argBuf) rest busRest (by rw [hlengths]; exact htx) (by rw [hcalls]; exact hbus)
  rw [hevents] at htrace
  rw [hend] at hview
  refine ⟨_, (exec_initialise s hl).trans (congrArg _ hrun), ?trace, ?length, rfl, congrArg (· ++ _) k.responses, rfl,
    congrArg View.lstate hview, (congrArg View.session hview).trans hs, congrArg View.cs hview, congrArg View.dc hview,
    congrArg View.rst hview, k.cfg, k.inputs, htx', hbus'⟩
  case trace =>
    rw [State.respond_trace, htrace, bringupEvents, bringupTail]
    simp only [List.append_assoc]
    rfl
  case length => rw [State.respond_trace, htrace, List.length_append, length_bringupEvents, State.accept_trace, add_assoc]

/-! ### A failing setup (R182) -/

/-- Steps (a) and (b) of INITIALIZE. -/
def bringupStart : List Micro := bringupLines ++ bringupBus

/-- Steps (c), (d) and (e) of INITIALIZE, which call the bus no more. -/
def bringupRest (c : Config) : List Micro :=
  thenWrite (.lstate .registersProgrammed) (thenWrite (.lstate .resetSettled) bringupReset ++ bringupTable c)
    ++ thenWrite (.lstate .active) (bringupDisplay c)

theorem initialiseProgram_eq (c : Config) : initialiseProgram c = bringupStart ++ bringupRest c :=
  List.append_assoc _ _ _

/-- A bus setup that fails: the abort path, after the event. -/
theorem Micro.perform_setup_fail {m : Micro} (hop : m.op = .busSetup) {s : State} {busRest : List BusReply}
    (hbus : s.busScript = .answer .err :: busRest) :
    m.perform s = .ended (({ s with busScript := busRest }).emit (.setup .err)).abort := by
  simp [Micro.perform, hop, MicroOp.run, State.busSetup, State.nextBus_cons s _ _ hbus, Micro.onError]

/-- Step (a), which makes no transport call: six events, the lines driven and high, the controller deselected. -/
theorem runSeq_bringupLines (s : State) :
    ∃ t, runSeq bringupLines s = .running t ∧
      t.trace = s.trace ++ [.mode .cs, .mode .dc, .mode .rst, .line .cs true, .line .rst true, .line .dc true] ∧
      t.view = { s.view with cs := ⟨true, true, true⟩, dc := ⟨true, true, true⟩, rst := ⟨true, true, true⟩ } ∧
      t.txScript = s.txScript ∧ t.busScript = s.busScript ∧ KeptByRun s t ∧ t.ctl = s.ctl.deselect := by
  obtain ⟨t, hrun, htrace, hview, htx, hbus, k⟩ := runSeq_ok bringupLines s s.txScript s.busScript rfl rfl
  exact ⟨t, hrun, htrace, hview, htx, hbus, k,
    runSeq_running_ctl bringupLines s t hrun (by simp [bringupLines, plain, Micro.keepsController])⟩

/-- INITIALIZE whose setup fails: the abort path from step (b), with chip-select already high. -/
theorem runMicros_initialise_setup_fail {s : State} {busRest : List BusReply}
    (hbus : s.busScript = .answer .err :: busRest) :
    ∃ u, runMicros (initialiseProgram s.cfg) s = u.abort ∧
      u.trace = s.trace ++
        [.mode .cs, .mode .dc, .mode .rst, .line .cs true, .line .rst true, .line .dc true, .setup .err] ∧
      u.view = { s.view with cs := ⟨true, true, true⟩, dc := ⟨true, true, true⟩, rst := ⟨true, true, true⟩ } ∧
      u.txScript = s.txScript ∧ u.busScript = busRest ∧ KeptByRun s u ∧ u.ctl = s.ctl.deselect := by
  obtain ⟨t, hrun, htrace, hview, htx, hbus', k, hctl⟩ := runSeq_bringupLines s
  refine ⟨({ t with busScript := busRest }).emit (.setup .err), ?run, ?trace, hview, htx, rfl,
    ⟨k.cfg, k.status, k.busy, k.lat, k.argBuf, k.responses, k.inputs⟩, hctl⟩
  case run =>
    have hfail := Micro.perform_setup_fail (m := ⟨.busSetup, [.lstate .busConfigured]⟩) rfl (hbus'.trans hbus)
    have hprogram : initialiseProgram s.cfg =
        bringupLines ++ ⟨.busSetup, [.lstate .busConfigured]⟩ :: bringupRest s.cfg := initialiseProgram_eq s.cfg
    rw [runMicros, hprogram, runSeq_append, hrun, Progress.andThen, runSeq_cons, hfail]
    rfl
  case trace =>
    rw [State.emit_trace, htrace, List.append_assoc]
    rfl

/-- Settles O26: the abort path from a setup that failed writes no line, as chip-select is high. -/
theorem failedSetupStaysUninitialized : Obligations.FailedSetupStaysUninitialized := by
  intro s busRest hb hl hbus
  obtain ⟨u, hrun, htrace, hview, htx, hbus', k, hctl⟩ :=
    runMicros_initialise_setup_fail (s := s.accept s.lat.ofInitialise s.argBuf) hbus
  have hcs : u.cs = ⟨true, true, true⟩ := congrArg View.cs hview
  obtain ⟨htrace', hwires⟩ := u.abort_released (by rw [hcs])
  have hfb : u.abort.ctl.fb = s.ctl.fb :=
    (Micro.onError_fb ⟨.busSetup, []⟩ u).trans (by rw [hctl]; rfl)
  exact ⟨_, (exec_initialise s hl).trans (congrArg _ hrun), htrace'.trans htrace, u.abort_status,
    u.abort_responses.trans (congrArg (· ++ _) k.responses), u.abort_busy,
    u.abort_lstate.trans ((congrArg View.lstate hview).trans hl), u.abort_session, (congrArg Wires.cs hwires).trans hcs,
    u.abort_dc.trans (congrArg View.dc hview), u.abort_rst.trans (congrArg View.rst hview), u.abort_txScript.trans htx,
    u.abort_busScript.trans hbus', fun a => congrArg (Memory.read · a) hfb⟩

/-! ### CLEANUP (R186) -/

/-- CLEANUP whose close is answered: `LSTATE <- UNINITIALIZED` whatever the answer, which shows in the event and the
status only. -/
theorem runMicros_cleanup_answered {s : State} {a : BusAnswer} {busRest : List BusReply}
    (hbus : s.busScript = .answer a :: busRest) :
    runMicros cleanupProgram s =
      ((({ s with busScript := busRest }).emit (.close a)).write (.lstate .uninitialized)).respond
        (if a = BusAnswer.ok then .ok else .transportError) := by
  rw [runMicros, cleanupProgram, runSeq_cons, Micro.perform, MicroOp.run, State.busClose, s.nextBus_cons _ _ hbus]
  cases a <;> rfl

theorem exec_cleanup_refused {s : State} (h : s.lstate = .uninitialized ∨ s.session ≠ .closed) :
    exec .cleanup s = .next s.refuse := by
  refine exec_refused _ s (.inl ?_)
  rcases h with h | h <;> simp [requestAdmitted, h]

/-- Settles O28: the one step of CLEANUP for either answer (`runMicros_cleanup_answered`), and the refusal path. -/
theorem cleanupClosesTheBus : Obligations.CleanupClosesTheBus := by
  refine ⟨rfl, fun s hb => ⟨fun a busRest hl hs hbus => ?_, exec_cleanup_refused⟩⟩
  have hrun := runMicros_cleanup_answered (s := s.accept s.lat.ofCleanup s.argBuf) hbus
  refine ⟨_, (exec_cleanup s hl hs).trans (congrArg _ hrun), rfl, rfl, rfl, ?_, rfl, hs, rfl, rfl, rfl, rfl, rfl, rfl,
    rfl, rfl⟩
  cases a <;> rfl

end Sys2Proof.Machine
end

section
/-! ## INITIALIZE whose transfer fails (R188) -/

namespace Sys2Proof.Machine

/-! ### The views at the transfers of a list of steps -/

/-- The view at each transfer of a list of steps that all succeed, in order. -/
def txViews : List Micro → View → List View
  | [], _ => []
  | m :: ms, v => (v.opLengths m.op).map (fun _ => v) ++ txViews ms (v.after m)

theorem length_txViews (ms : List Micro) (v : View) : (txViews ms v).length = (txLengths ms v).length := by
  induction ms generalizing v with
  | nil => rfl
  | cons m ms ih => simp only [txViews, txLengths, List.length_append, List.length_map, ih]

theorem txViews_append (xs ys : List Micro) (v : View) :
    txViews (xs ++ ys) v = txViews xs v ++ txViews ys (v.afterAll xs) := by
  induction xs generalizing v with
  | nil => rfl
  | cons m ms ih => simp only [List.cons_append, txViews, ih, List.append_assoc, View.afterAll, List.foldl_cons]

theorem txViews_thenWrite (w : RegWrite) (ms : List Micro) (v : View) :
    txViews (thenWrite w ms) v = txViews ms v := by
  rcases List.eq_nil_or_concat' ms with rfl | ⟨zs, m, rfl⟩
  · rfl
  · simp only [thenWrite_append_singleton, txViews_append, txViews]

theorem getElem?_txViews (ms : List Micro) (v : View) (k : Nat) (hk : k < (txLengths ms v).length) :
    (txViews ms v)[k]? = some (viewAtTransfer k ms v) := by
  induction ms generalizing v k with
  | nil => exact absurd hk (Nat.not_lt_zero k)
  | cons m ms ih =>
    obtain ⟨op, ws⟩ := m
    cases op with
    | tx src tmo =>
      cases k with
      | zero => rfl
      | succ j => exact ih _ j (Nat.lt_of_succ_lt_succ hk)
    | mode p => cases k <;> exact ih _ _ hk
    | line p l => cases k <;> exact ih _ _ hk
    | delay d => cases k <;> exact ih _ _ hk
    | busSetup => cases k <;> exact ih _ _ hk
    | busClose => cases k <;> exact ih _ _ hk

/-! ### The transfers of bring-up -/

/-- Inside a command frame that began in the view `v`: chip-select asserted, `LSTATE` and `RST` as before. -/
structure View.InFrame (v w : View) : Prop where
  lstate : w.lstate = v.lstate
  cs : w.cs = ⟨false, v.cs.oe, true⟩
  rst : w.rst = v.rst

theorem txViews_frame (cmd : Byte) (args : Option TxSource) (v : View) :
    ∀ w ∈ txViews (frame cmd args) v, v.InFrame w := by
  cases args with
  | none =>
    rintro w (_ | ⟨_, ⟨⟩⟩)
    exact ⟨rfl, rfl, rfl⟩
  | some src =>
    rintro w (_ | ⟨_, _ | ⟨_, ⟨⟩⟩⟩)
    · exact ⟨rfl, rfl, rfl⟩
    · exact ⟨rfl, rfl, rfl⟩

/-- A frame after another frame begins with the same `LSTATE`, `RST` and output enables. -/
theorem View.InFrame.of_afterAll_frame {cmd : Byte} {args : Option TxSource} {v w : View}
    (h : (v.afterAll (frame cmd args)).InFrame w) : v.InFrame w := by
  rw [View.afterAll_frame] at h
  exact ⟨h.lstate, h.cs, h.rst⟩

theorem txViews_table (table : List InitEntry) (v : View) :
    ∀ w ∈ txViews (table.flatMap entryFrame) v, v.InFrame w := by
  induction table generalizing v with
  | nil => exact fun w hw => absurd hw List.not_mem_nil
  | cons e es ih =>
    intro w hw
    rw [List.flatMap_cons, txViews_append] at hw
    rcases List.mem_append.1 hw with hw | hw
    · exact txViews_frame _ _ v w hw
    · exact (ih _ w hw).of_afterAll_frame

theorem txViews_display (c : Config) (v : View) : ∀ w ∈ txViews (bringupDisplay c) v, v.InFrame w := by
  intro w hw
  rw [bringupDisplay, txViews_append, txViews_append, txViews_append] at hw
  simp only [List.mem_append] at hw
  rcases hw with ((hw | hw) | hw) | hw
  · exact txViews_frame _ _ v w hw
  · exact absurd hw List.not_mem_nil
  · rw [View.afterAll_append] at hw
    exact View.InFrame.of_afterAll_frame (txViews_frame _ _ _ w hw)
  · exact absurd hw List.not_mem_nil

theorem bringupReset_append_ne_nil (ms : List Micro) : thenWrite (.lstate .resetSettled) bringupReset ++ ms ≠ [] :=
  List.append_ne_nil_of_left_ne_nil (by simp [bringupReset, thenWrite]) ms

/-- The transfers of bring-up are those of step (d), after the reset pulse, and those of step (e). -/
theorem txViews_bringupRest (c : Config) (v : View) :
    txViews (bringupRest c) v =
      txViews (bringupTable c) (v.afterAll (thenWrite (.lstate .resetSettled) bringupReset)) ++
        txViews (bringupDisplay c) (((v.afterAll (thenWrite (.lstate .resetSettled) bringupReset)).afterAll
          (bringupTable c)).afterWrite (.lstate .registersProgrammed)) := by
  rw [bringupRest, txViews_append, txViews_thenWrite, txViews_append, txViews_thenWrite, txViews_thenWrite,
    View.afterAll_thenWrite _ _ _ (bringupReset_append_ne_nil _), View.afterAll_append]
  rfl

/-- The view at transfer number `k` of bring-up (R188): the lifecycle state that step (d) or step (e) runs in, with
chip-select asserted and the panel out of reset. -/
theorem viewAtTransfer_bringupRest (c : Config) {v : View} {k : Nat} (hcs : v.cs = ⟨true, true, true⟩)
    (hdc : v.dc.written = true) (hrst : v.rst.oe = true) (hk : k < (txLengths (bringupRest c) v).length) :
    (viewAtTransfer k (bringupRest c) v).lstate =
        (if k < (tableLengths c.initTable).length then .resetSettled else .registersProgrammed) ∧
      (viewAtTransfer k (bringupRest c) v).cs = ⟨false, true, true⟩ ∧
      (viewAtTransfer k (bringupRest c) v).rst = ⟨true, true, true⟩ := by
  have hget := getElem?_txViews _ v k hk
  generalize viewAtTransfer k (bringupRest c) v = w at hget
  obtain ⟨-, hlen, -⟩ := okEvents_table c.initTable (v.afterAll (thenWrite (.lstate .resetSettled) bringupReset))
  obtain ⟨l, hl⟩ := View.afterAll_table c.initTable (v.afterAll (thenWrite (.lstate .resetSettled) bringupReset))
    (by simp [bringupReset, thenWrite, plain, View.afterAll, View.after, View.afterOp, View.afterWrite, hcs]) hdc
  rw [txViews_bringupRest, bringupTable, hl, List.getElem?_append, length_txViews, hlen] at hget
  have hframe : View.InFrame { v with
      lstate := if k < (tableLengths c.initTable).length then .resetSettled else .registersProgrammed
      rst := ⟨true, v.rst.oe, true⟩ } w := by
    split_ifs at hget ⊢
    · have h := txViews_table _ _ w (List.mem_of_getElem? hget)
      exact ⟨h.lstate, h.cs, h.rst⟩
    · have h := txViews_display c _ w (List.mem_of_getElem? hget)
      exact ⟨h.lstate, h.cs, h.rst⟩
  exact ⟨hframe.lstate, hframe.cs.trans (by simp only [hcs]), hframe.rst.trans (by simp only [hrst])⟩

/-! ### A failing transfer -/

/-- Steps (a) and (b) make no transfer: the cut is in what follows. -/
theorem cutAtTransfer_bringupStart (k : Nat) (a : TxAnswer) (v : View) (es : List Event) :
    cutAtTransfer k a (okEvents bringupStart v ++ es) = okEvents bringupStart v ++ cutAtTransfer k a es := by
  cases k <;> rfl

theorem bringupRest_busCalls (c : Config) : ∀ m ∈ bringupRest c, m.op.busCalls = 0 := by
  have hsum : busCalls (bringupRest c) = 0 := by
    obtain ⟨-, -, htable⟩ := okEvents_table c.initTable State.reset.view
    rw [bringupRest, busCalls_append, busCalls_thenWrite, busCalls_append, bringupTable, htable]
    rfl
  exact fun m hm => List.sum_eq_zero_iff.1 hsum _ (List.mem_map_of_mem hm)

/-- INITIALIZE whose transfer number `k` is the first that fails: the abort path from that transfer. -/
theorem runMicros_initialise_fail {s : State} {k n : Nat} {a : TxAnswer} {rest : List TxReply}
    {busRest : List BusReply} (hbus : s.busScript = .answer .ok :: busRest)
    (hk : (tableLengths s.cfg.initTable ++ [1, 1])[k]? = some n) (ha : a ≠ .ok n)
    (htx : s.txScript = okReplies ((tableLengths s.cfg.initTable ++ [1, 1]).take k) ++ .answer a :: rest) :
    ∃ u, runMicros (initialiseProgram s.cfg) s = u.abort ∧
      u.trace = s.trace ++ cutAtTransfer k a (bringupEvents s.cfg) ∧
      u.lstate = (if k < (tableLengths s.cfg.initTable).length then .resetSettled else .registersProgrammed) ∧
      u.cs = ⟨false, true, true⟩ ∧ u.rst = ⟨true, true, true⟩ ∧ u.txScript = rest ∧ u.busScript = busRest ∧
      KeptByRun s u := by
  obtain ⟨hevents, hlengths, -⟩ := initialiseProgram_spec s.cfg s.view
  rw [initialiseProgram_eq, okEvents_append] at hevents
  rw [initialiseProgram_eq, txLengths_append, show txLengths bringupStart s.view = [] from rfl,
    List.nil_append] at hlengths
  rw [← hlengths] at hk htx
  obtain ⟨t, hstart, htrace, hview, htx', hbus', k1⟩ := runSeq_ok bringupStart s s.txScript busRest rfl hbus
  rw [← hview] at hevents hk htx
  obtain ⟨u, hrest, htrace', hview', htx'', hbus'', k2⟩ := runSeq_fail (bringupRest s.cfg) t k n a rest busRest hk ha
    (htx'.trans htx) hbus' (bringupRest_busCalls s.cfg)
  obtain ⟨hlstate, hcs, hrst⟩ := viewAtTransfer_bringupRest s.cfg (v := t.view) (by rw [hview]; rfl)
    (by rw [hview]; rfl) (by rw [hview]; rfl) (List.getElem?_eq_some_iff.1 hk).1
  rw [← hview'] at hlstate hcs hrst
  refine ⟨u, ?run, ?trace, hlstate, hcs, hrst, htx'', hbus'', k1.trans k2⟩
  case run =>
    rw [runMicros, initialiseProgram_eq, runSeq_append, hstart, Progress.andThen, hrest]
    rfl
  case trace => rw [htrace', htrace, ← hevents, cutAtTransfer_bringupStart, List.append_assoc]

/-- Settles O27: the failing transfer stands in a frame of step (d) or of step (e) (`viewAtTransfer_bringupRest`), and
the abort path leaves `LSTATE` alone. -/
theorem failedBringupKeepsLastStateReached : Obligations.FailedBringupKeepsLastStateReached := by
  intro s k n a rest busRest hb hl hbus hk ha htx
  obtain ⟨u, hrun, htrace, hlstate, hcs, hrst, htx', hbus', kept⟩ :=
    runMicros_initialise_fail (s := s.accept s.lat.ofInitialise s.argBuf) hbus hk ha htx
  obtain ⟨htrace', hwires⟩ := u.abort_asserted (by rw [hcs])
  exact ⟨_, (exec_initialise s hl).trans (congrArg _ hrun), htrace'.trans (congrArg (· ++ _) htrace),
    u.abort_lstate.trans hlstate, u.abort_status, u.abort_responses.trans (congrArg (· ++ _) kept.responses),
    u.abort_busy, u.abort_session,
    (congrArg Wires.cs hwires).trans (congrArg (fun r : LineReg => { r with level := true, written := true }) hcs),
    u.abort_rst.trans hrst, u.abort_txScript.trans htx', u.abort_busScript.trans hbus'⟩

end Sys2Proof.Machine
end

section
/-! ## The lifecycle (R22, R187, R190) -/

namespace Sys2Proof.Machine

/-! ### `LSTATE` after a list of steps -/

theorem lstateAfter_append (xs ys : List Micro) (l : LState) :
    lstateAfter (xs ++ ys) l = lstateAfter ys (lstateAfter xs l) := by
  simp only [lstateAfter, List.flatMap_append, List.foldl_append]

theorem lstateAfter_cons (m : Micro) (ms : List Micro) (l : LState) :
    lstateAfter (m :: ms) l = lstateAfter ms (lstateAfter [m] l) :=
  lstateAfter_append [m] ms l

/-- A write of `LSTATE` after a list of steps decides. -/
theorem lstateAfter_thenWrite (x : LState) {ms : List Micro} (h : ms ≠ []) (l : LState) :
    lstateAfter (thenWrite (.lstate x) ms) l = x := by
  obtain ⟨zs, m, rfl⟩ := (List.eq_nil_or_concat' ms).resolve_left h
  simp [thenWrite_append_singleton, lstateAfter, List.foldl_append]

/-- Before its last step a list does not see the write placed after it. -/
theorem take_thenWrite (w : RegWrite) (ms : List Micro) {n : Nat} (hn : n < ms.length) :
    (thenWrite w ms).take n = ms.take n := by
  obtain ⟨zs, m, rfl⟩ := (List.eq_nil_or_concat' ms).resolve_left (by rintro rfl; exact absurd hn (Nat.not_lt_zero n))
  rw [List.length_append, List.length_singleton] at hn
  rw [thenWrite_append_singleton, List.take_append_of_le_length (by omega), List.take_append_of_le_length (by omega)]

theorem lstateAfter_take_thenWrite (x : LState) {ms : List Micro} (h : ms ≠ []) (n : Nat) (l : LState) :
    lstateAfter ((thenWrite (.lstate x) ms).take n) l =
      if ms.length ≤ n then x else lstateAfter (ms.take n) l := by
  split_ifs with hn
  · rw [List.take_of_length_le (by rwa [thenWrite_length]), lstateAfter_thenWrite x h]
  · rw [take_thenWrite _ ms (not_le.1 hn)]

theorem lstateAfter_take_append (xs ys : List Micro) (n : Nat) (l : LState) :
    lstateAfter ((xs ++ ys).take n) l = lstateAfter (ys.take (n - xs.length)) (lstateAfter (xs.take n) l) := by
  rw [List.take_append, lstateAfter_append]

/-- No step of the list writes `LSTATE`. -/
def SparesLState (ms : List Micro) : Prop := ∀ m ∈ ms, ∀ l, lstateAfter [m] l = l

theorem SparesLState.append {xs ys : List Micro} (hx : SparesLState xs) (hy : SparesLState ys) :
    SparesLState (xs ++ ys) :=
  fun m hm => (List.mem_append.1 hm).elim (hx m) (hy m)

theorem SparesLState.lstateAfter {ms : List Micro} (h : SparesLState ms) (l : LState) :
    Machine.lstateAfter ms l = l := by
  induction ms with
  | nil => rfl
  | cons m ms ih =>
    rw [lstateAfter_cons, h m List.mem_cons_self l]
    exact ih fun x hx => h x (List.mem_cons_of_mem m hx)

theorem SparesLState.take {ms : List Micro} (h : SparesLState ms) (n : Nat) : SparesLState (ms.take n) :=
  fun m hm => h m (List.mem_of_mem_take hm)

theorem SparesLState.drop {ms : List Micro} (h : SparesLState ms) (n : Nat) : SparesLState (ms.drop n) :=
  fun m hm => h m (List.mem_of_mem_drop hm)

theorem frame_sparesLState (cmd : Byte) (args : Option TxSource) : SparesLState (frame cmd args) := by
  cases args <;> simp [SparesLState, frame, frameArgs, plain, lstateAfter]

theorem bringupTable_sparesLState (c : Config) : SparesLState (bringupTable c) := by
  intro m hm
  obtain ⟨e, -, he⟩ := List.mem_flatMap.1 hm
  exact frame_sparesLState _ _ m he

theorem bringupDisplay_sparesLState (c : Config) : SparesLState (bringupDisplay c) := by
  simp [SparesLState, bringupDisplay, frame, frameArgs, plain, lstateAfter]

theorem bringupLines_sparesLState : SparesLState bringupLines := by
  simp [SparesLState, bringupLines, plain, lstateAfter]

theorem bringupReset_sparesLState : SparesLState bringupReset := by
  simp [SparesLState, bringupReset, plain, lstateAfter]

/-! ### The lifecycle states of bring-up (R180) -/

/-- `LSTATE` after `n` steps of an INITIALIZE whose step (d) has `d` steps (R180 to R185). -/
def bringupLState (d n : Nat) : LState :=
  if 22 + d ≤ n then .active
  else if 12 + d ≤ n then .registersProgrammed
  else if 12 ≤ n then .resetSettled
  else if 7 ≤ n then .busConfigured
  else .uninitialized

theorem length_bringupLines : bringupLines.length = 6 := rfl
theorem length_bringupReset : bringupReset.length = 5 := rfl
theorem length_bringupDisplay (c : Config) : (bringupDisplay c).length = 10 := rfl

theorem length_initialiseProgram (c : Config) : (initialiseProgram c).length = 22 + (bringupTable c).length := by
  simp only [initialiseProgram, bringupBus, List.length_append, thenWrite_length, length_bringupLines,
    List.length_singleton, length_bringupReset, length_bringupDisplay]
  omega

theorem lstateAfter_take_initialise (c : Config) (n : Nat) :
    lstateAfter ((initialiseProgram c).take n) .uninitialized = bringupLState (bringupTable c).length n := by
  have hsetup : SparesLState [plain .busSetup] := by simp [SparesLState, plain, lstateAfter]
  simp only [initialiseProgram, bringupBus, lstateAfter_take_append]
  rw [lstateAfter_take_thenWrite _ (by simp [bringupDisplay]), ((bringupDisplay_sparesLState c).take _).lstateAfter,
    lstateAfter_take_thenWrite _ (bringupReset_append_ne_nil _), lstateAfter_take_append,
    ((bringupTable_sparesLState c).take _).lstateAfter, lstateAfter_take_thenWrite _ (by simp [bringupReset]),
    (bringupReset_sparesLState.take _).lstateAfter, lstateAfter_take_thenWrite _ (by simp),
    (hsetup.take _).lstateAfter, (bringupLines_sparesLState.take _).lstateAfter]
  simp only [List.length_append, thenWrite_length, length_bringupLines, List.length_singleton, length_bringupReset,
    length_bringupDisplay, bringupLState]
  exact if_congr (by omega) rfl (if_congr (by omega) rfl (if_congr (by omega) rfl (if_congr (by omega) rfl rfl)))

theorem code_bringupLState (d n : Nat) : (bringupLState d n).code.toNat =
    if 22 + d ≤ n then 4 else if 12 + d ≤ n then 3 else if 12 ≤ n then 2 else if 7 ≤ n then 1 else 0 := by
  unfold bringupLState
  split_ifs <;> rfl

/-- Bring-up never moves `LSTATE` back. -/
theorem bringupLState_mono (d n : Nat) : (bringupLState d n).code.toNat ≤ (bringupLState d (n + 1)).code.toNat := by
  rw [code_bringupLState, code_bringupLState]
  split_ifs <;> omega

theorem LState.code_injective {k l : LState} (h : k.code.toNat = l.code.toNat) : k = l := by
  revert h
  cases k <;> cases l <;> decide

/-- With a table that is not empty (R8), one step leaves `LSTATE` or moves it to the next of the five. -/
theorem bringupLState_succ {d : Nat} (hd : 0 < d) (n : Nat) :
    bringupLState d (n + 1) = bringupLState d n ∨
      (bringupLState d (n + 1)).code.toNat = (bringupLState d n).code.toNat + 1 := by
  refine Or.imp_left LState.code_injective ?_
  rw [code_bringupLState, code_bringupLState]
  split_ifs <;> omega

/-! ### A step of a micro-program and `LSTATE` -/

theorem View.lstate_afterOp (op : MicroOp) (v : View) : (v.afterOp op).lstate = v.lstate := by
  cases op with
  | mode p => cases p <;> rfl
  | line p l => cases p <;> rfl
  | tx src tmo => rfl
  | delay d => rfl
  | busSetup => rfl
  | busClose => rfl

theorem View.lstate_foldl_afterWrite (m : Micro) (v : View) :
    (m.writes.foldl View.afterWrite v).lstate = lstateAfter [m] v.lstate := by
  obtain ⟨op, ws⟩ := m
  induction ws generalizing v with
  | nil => rfl
  | cons w ws ih =>
    refine (ih (v.afterWrite w)).trans ?_
    cases w <;> rfl

theorem View.lstate_after (m : Micro) (v : View) : (v.after m).lstate = lstateAfter [m] v.lstate := by
  rw [View.after, View.lstate_foldl_afterWrite, View.lstate_afterOp]

theorem View.lstate_afterAll (ms : List Micro) (v : View) : (v.afterAll ms).lstate = lstateAfter ms v.lstate := by
  induction ms generalizing v with
  | nil => rfl
  | cons m ms ih =>
    rw [lstateAfter_cons, ← View.lstate_after]
    exact ih (v.after m)

theorem Stepped.lstate {m : Micro} {s t : State} (h : Stepped m s t) : t.lstate = lstateAfter [m] s.lstate :=
  (congrArg View.lstate h.view).trans (View.lstate_after m s.view)

theorem Completed.lstate {ms : List Micro} {s t : State} (h : Completed ms s t) :
    t.lstate = lstateAfter ms s.lstate :=
  (congrArg View.lstate h.view).trans (View.lstate_afterAll ms s.view)

theorem Waits.lstate {s t : State} (h : Waits s t) : t.lstate = s.lstate := by
  obtain ⟨tx, bus, n, rfl⟩ := h.same
  rfl

/-- An error leaves `LSTATE` alone (R204), or, at a failed `bus_close`, as the register writes after it say (R186). -/
theorem Micro.onError_lstate (m : Micro) (s : State) :
    (m.onError s).lstate = s.lstate ∨ (m.op = .busClose ∧ (m.onError s).lstate = lstateAfter [m] s.lstate) := by
  by_cases hm : m.op = .busClose
  · refine .inr ⟨hm, ?_⟩
    rw [m.onError_busClose s hm]
    exact (congrArg View.lstate (s.view_writeAll m.writes)).trans (View.lstate_foldl_afterWrite m s.view)
  · exact .inl (by rw [m.onError_eq_abort s hm, State.abort_lstate])

/-! ### The requests other than INITIALIZE (R187) -/

/-- A list that does not write `LSTATE` leaves it alone, whatever the transport answers. -/
theorem SparesLState.runMicros {ms : List Micro} (h : SparesLState ms) (s : State) :
    (Machine.runMicros ms s).lstate = s.lstate := by
  cases runMicros_cases ms s with
  | answered u k e => rw [e, State.respond_lstate, k.lstate, h.lstateAfter]
  | failed pre m post v u hms k r hc e =>
    subst hms
    have hm := h m (by simp)
    have hu : u.lstate = s.lstate := by
      rw [r.lstate, k.lstate, SparesLState.lstateAfter fun x hx => h x (by simp [hx])]
    rw [e, ← hu]
    rcases m.onError_lstate u with hl | ⟨-, hl⟩
    · exact hl
    · exact hl.trans (hm u.lstate)
  | waiting pre m post v hms k w =>
    subst hms
    rw [w.lstate, k.lstate, SparesLState.lstateAfter fun x hx => h x (by simp [hx])]

theorem SparesLState.thenWrite {ms : List Micro} (h : SparesLState ms) {w : RegWrite} (hw : ∀ x, w ≠ .lstate x) :
    SparesLState (thenWrite w ms) := by
  rcases List.eq_nil_or_concat' ms with rfl | ⟨zs, m, rfl⟩
  · exact h
  · rw [thenWrite_append_singleton]
    refine SparesLState.append (fun x hx => h x (by simp [hx])) fun x hx l => ?_
    rw [List.mem_singleton.1 hx]
    have hm := h m (by simp) l
    cases w with
    | lstate x => exact absurd rfl (hw x)
    | session x => simpa [Machine.lstateAfter, List.foldl_append] using hm
    | rowBuf bs => simpa [Machine.lstateAfter, List.foldl_append] using hm

theorem window_sparesLState (c : Config) (x1 y1 x2 y2 : Word16) (dir : Dir) :
    SparesLState (window c x1 y1 x2 y2 dir) := by
  simp [SparesLState, window, Machine.thenWrite, plain, lstateAfter]

theorem fillProgram_sparesLState (c : Config) (lat : Latches) : SparesLState (fillProgram c lat) := by
  have hrows : SparesLState (List.replicate (span lat.y1 lat.y2) (plain (.tx .rowBuf .row))) := by
    intro m hm l
    rw [List.eq_of_mem_replicate hm]
    rfl
  have hend : SparesLState endSessionProgram := by simp [SparesLState, endSessionProgram, lstateAfter]
  exact (((window_sparesLState _ _ _ _ _ _).thenWrite (w := .rowBuf _) (fun _ => nofun)).append hrows).append hend

/-- Only INITIALIZE and CLEANUP write `LSTATE`. -/
theorem microProgram_sparesLState {c : Config} {lat : Latches} {ms : List Micro} (h : microProgram c lat = some ms)
    (hi : lat.opr ≠ opInitialise) (hc : lat.opr ≠ opCleanup) : SparesLState ms := by
  rw [microProgram, if_neg hi, if_neg hc] at h
  split_ifs at h <;> cases h
  · exact frame_sparesLState _ _
  · exact frame_sparesLState _ _
  · exact window_sparesLState _ _ _ _ _ _
  · simp [SparesLState, streamProgram, plain, lstateAfter]
  · simp [SparesLState, endSessionProgram, lstateAfter]
  · exact fillProgram_sparesLState c lat

/-- CLEANUP, from either of its two values of `UPC` on, leaves `LSTATE` or sets it to `UNINITIALIZED` (R186). -/
theorem runMicros_cleanup_lstate (n : Nat) (s : State) :
    (runMicros (cleanupProgram.drop n) s).lstate = s.lstate ∨
      (runMicros (cleanupProgram.drop n) s).lstate = .uninitialized := by
  cases n with
  | zero =>
    rw [List.drop_zero, runMicros, cleanupProgram, runSeq_cons]
    rcases Micro.perform_cases ⟨.busClose, [.lstate .uninitialized]⟩ s with
      ⟨u, hu, st⟩ | ⟨u, hu, r, -⟩ | ⟨u, hu, w⟩
    · rw [hu]
      exact .inr st.lstate
    · rw [hu]
      rcases Micro.onError_lstate ⟨.busClose, [.lstate .uninitialized]⟩ u with hl | ⟨-, hl⟩
      · exact .inl (hl.trans r.lstate)
      · exact .inr hl
    · rw [hu]
      exact .inl w.lstate
  | succ n => exact .inl (by simp [cleanupProgram, runMicros, Progress.finish])

/-! ### INITIALIZE (R180, R187, R188, R190) -/

theorem microProgram_initialise (c : Config) {lat : Latches} (ho : lat.opr = opInitialise) :
    microProgram c lat = some (initialiseProgram c) := by
  rw [microProgram, if_pos ho]

theorem hasLeft_initialise {s : State} {ms : List Micro} (h : s.hasLeft ms) (ho : s.lat.opr = opInitialise) :
    s.upc ≤ (initialiseProgram s.cfg).length ∧ (initialiseProgram s.cfg).drop s.upc = ms := by
  obtain ⟨-, all, hp, hu, hd⟩ := h
  rw [microProgram_initialise s.cfg ho] at hp
  cases hp
  exact ⟨hu, hd⟩

/-- `LSTATE` while INITIALIZE runs is what `UPC` says. -/
theorem State.lifecycleInv.lstate {s : State} (h : s.lifecycleInv) (hb : s.busy = true)
    (ho : s.lat.opr = opInitialise) : s.lstate = bringupLState (bringupTable s.cfg).length s.upc :=
  (h hb ho).trans (lstateAfter_take_initialise s.cfg s.upc)

/-- A completed step of a running request keeps the lifecycle what its steps so far have made of it. -/
theorem Stepped.lifecycleInv {m : Micro} {ms : List Micro} {s t : State} (h : Stepped m s t) (hl : s.hasLeft (m :: ms))
    (hi : s.lifecycleInv) : t.lifecycleInv := by
  intro _ ho
  rw [h.lat] at ho
  obtain ⟨-, hd⟩ := hasLeft_initialise hl ho
  have htake : (initialiseProgram s.cfg).take (s.upc + 1) = (initialiseProgram s.cfg).take s.upc ++ [m] := by
    rw [List.take_add, hd]
    rfl
  rw [h.lstate, hi hl.1 ho, h.cfg, h.upc, htake, lstateAfter_append]

/-- A completed step of INITIALIZE moves `LSTATE` on as `UPC` does. -/
theorem Stepped.bringupLState {m : Micro} {ms : List Micro} {s t : State} (h : Stepped m s t)
    (hl : s.hasLeft (m :: ms)) (ho : s.lat.opr = opInitialise) (hi : s.lifecycleInv) :
    t.lstate = Machine.bringupLState (bringupTable s.cfg).length (s.upc + 1) := by
  rw [(h.lifecycleInv hl hi).lstate (h.busy.trans hl.1) (h.lat ▸ ho), h.cfg, h.upc]

theorem Waits.lifecycleInv {s t : State} (h : Waits s t) (hi : s.lifecycleInv) : t.lifecycleInv := by
  obtain ⟨tx, bus, n, rfl⟩ := h.same
  exact hi

theorem lifecycleInv_of_idle {s : State} (h : s.busy = false) : s.lifecycleInv := fun hb => by simp [h] at hb

/-- How a step that fails ends its request. -/
theorem Micro.perform_ended {m : Micro} {s t : State} (h : m.perform s = .ended t) :
    ∃ u, t = m.onError u ∧ Ran m.op s u ∧ m.op.canRaise = true := by
  rcases m.perform_cases s with ⟨u, hu, -⟩ | ⟨u, hu, r, hc⟩ | ⟨u, hu, -⟩ <;> cases h.symm.trans hu
  exact ⟨u, rfl, r, hc⟩

theorem runMicros_lifecycleInv {ms : List Micro} {s : State} (hl : s.hasLeft ms) (hi : s.lifecycleInv) :
    (runMicros ms s).lifecycleInv := by
  refine runMicros_induct (P := fun ms u => u.hasLeft ms ∧ u.lifecycleInv) (Q := State.lifecycleInv)
    (fun m ms u t hu hp => ?_) (fun m ms u t hu hp => ?_) (fun m ms u t hu hp => ?_)
    (fun u _ => lifecycleInv_of_idle rfl) ms s ⟨hl, hi⟩
  · have st := Stepped.of_running hp
    exact ⟨st.hasLeft hu.1, st.lifecycleInv hu.1 hu.2⟩
  · obtain ⟨v, rfl, -⟩ := Micro.perform_ended hp
    exact lifecycleInv_of_idle (m.onError_busy v)
  · exact (Waits.of_blocked hp).lifecycleInv hu.2

theorem map_op_thenWrite (w : RegWrite) (ms : List Micro) : (thenWrite w ms).map Micro.op = ms.map Micro.op := by
  rcases List.eq_nil_or_concat' ms with rfl | ⟨zs, m, rfl⟩
  · rfl
  · rw [thenWrite_append_singleton, List.map_append, List.map_append]
    rfl

/-- The steps in `BUS_CONFIGURED`, those of (c), cannot fail (R183). -/
theorem initialise_canRaise {c : Config} {n : Nat} {m : Micro} (hm : (initialiseProgram c)[n]? = some m)
    (hlo : 7 ≤ n) (hhi : n < 12) : m.op.canRaise = false := by
  have hops : (bringupRest c).map Micro.op =
      bringupReset.map Micro.op ++ ((bringupTable c).map Micro.op ++ (bringupDisplay c).map Micro.op) := by
    simp only [bringupRest, List.map_append, map_op_thenWrite, List.append_assoc]
  have hop : ((bringupRest c).map Micro.op)[n - 7]? = some m.op := by
    rw [initialiseProgram_eq, List.getElem?_append_right hlo] at hm
    rw [List.getElem?_map]
    exact congrArg (Option.map Micro.op) hm
  rw [hops, List.getElem?_append_left (by rw [List.length_map, length_bringupReset]; omega)] at hop
  have hpulse : ∀ op ∈ bringupReset.map Micro.op, op.canRaise = false := by decide
  exact hpulse m.op (List.mem_of_getElem? hop)

theorem bringupLState_eq_active {d n : Nat} : bringupLState d n = .active ↔ 22 + d ≤ n := by
  unfold bringupLState
  split_ifs with h1 h2 h3 h4 <;> simp [h1]

theorem bringupLState_busConfigured {d n : Nat} (h : bringupLState d n = .busConfigured) : 7 ≤ n ∧ n < 12 := by
  unfold bringupLState at h
  split_ifs at h with h1 h2 h3 h4
  omega

theorem hasLeft_initialise_head {m : Micro} {ms : List Micro} {s : State} (h : s.hasLeft (m :: ms))
    (ho : s.lat.opr = opInitialise) : (initialiseProgram s.cfg)[s.upc]? = some m := by
  obtain ⟨-, hd⟩ := hasLeft_initialise h ho
  rw [← List.head?_drop, hd]
  rfl

/-- A step of INITIALIZE that fails leaves `LSTATE` where its steps have brought it (R188). -/
theorem perform_ended_initialise {m : Micro} {s t : State} (hm : m ∈ initialiseProgram s.cfg)
    (h : m.perform s = .ended t) : t.lstate = s.lstate := by
  obtain ⟨u, rfl, r, -⟩ := Micro.perform_ended h
  rw [m.onError_eq_abort u (initialiseProgram_noBusClose s.cfg m hm), State.abort_lstate, r.lstate]

/-- What the answer of INITIALIZE says of the lifecycle (R187, R190). -/
def State.bringupAnswered (t : State) : Prop := (t.status = .ok ↔ t.lstate = .active) ∧ t.lstate ≠ .busConfigured

/-- INITIALIZE, from any of its steps on, never moves `LSTATE` back, and answers `OK` exactly in `ACTIVE`. -/
theorem runMicros_bringup {ms : List Micro} {s : State} (hl : s.hasLeft ms) (ho : s.lat.opr = opInitialise)
    (hi : s.lifecycleInv) :
    s.lstate.code.toNat ≤ (runMicros ms s).lstate.code.toNat ∧
      ((runMicros ms s).busy = false → (runMicros ms s).bringupAnswered) := by
  refine runMicros_induct
    (P := fun ms u => (u.hasLeft ms ∧ u.lat.opr = opInitialise ∧ u.lifecycleInv) ∧
      s.lstate.code.toNat ≤ u.lstate.code.toNat)
    (Q := fun t => s.lstate.code.toNat ≤ t.lstate.code.toNat ∧ (t.busy = false → t.bringupAnswered))
    ?running ?ended ?blocked ?done ms s ⟨⟨hl, ho, hi⟩, le_rfl⟩
  case running =>
    rintro m ms u t ⟨⟨hl, ho, hi⟩, hle⟩ hp
    have st := Stepped.of_running hp
    refine ⟨⟨st.hasLeft hl, st.lat ▸ ho, st.lifecycleInv hl hi⟩, hle.trans ?_⟩
    rw [st.bringupLState hl ho hi, hi.lstate hl.1 ho]
    exact bringupLState_mono _ _
  case ended =>
    rintro m ms u t ⟨⟨hl, ho, hi⟩, hle⟩ hp
    have hm := hasLeft_initialise_head hl ho
    have hlt : u.upc < 22 + (bringupTable u.cfg).length :=
      length_initialiseProgram u.cfg ▸ (List.getElem?_eq_some_iff.1 hm).1
    have hlstate : t.lstate = u.lstate := perform_ended_initialise (List.mem_of_getElem? hm) hp
    refine ⟨hlstate ▸ hle, fun _ => ?_⟩
    rw [State.bringupAnswered, Micro.perform_ended_status hp, hlstate, hi.lstate hl.1 ho, bringupLState_eq_active]
    refine ⟨⟨nofun, fun h => absurd h (not_le.2 hlt)⟩, fun hbus => ?_⟩
    obtain ⟨hlo, hhi⟩ := bringupLState_busConfigured hbus
    obtain ⟨v, -, -, hraise⟩ := Micro.perform_ended hp
    exact Bool.false_ne_true ((initialise_canRaise hm hlo hhi).symm.trans hraise)
  case blocked =>
    rintro m ms u t ⟨⟨hl, ho, hi⟩, hle⟩ hp
    have w := Waits.of_blocked hp
    exact ⟨w.lstate ▸ hle, fun hb => by simp [w.busy, hl.1] at hb⟩
  case done =>
    rintro u ⟨⟨hl, ho, hi⟩, hle⟩
    obtain ⟨-, hd⟩ := hasLeft_initialise hl ho
    have hactive : u.lstate = .active := by
      rw [hi.lstate hl.1 ho, bringupLState_eq_active, ← length_initialiseProgram]
      exact List.drop_eq_nil_iff.1 hd
    exact ⟨hle, fun _ => by simp [State.bringupAnswered, hactive]⟩

/-! ### Every request and every step (R187) -/

/-- What the transition table of R187 lets a running request with this opcode do to `LSTATE`. -/
structure LifecycleTable (opr : Byte) (s t : State) : Prop where
  other : opr ≠ opInitialise → opr ≠ opCleanup → t.lstate = s.lstate
  cleanup : opr = opCleanup → t.lstate = s.lstate ∨ t.lstate = .uninitialized
  initialise : opr = opInitialise →
    s.lstate.code.toNat ≤ t.lstate.code.toNat ∧ (t.busy = false → t.bringupAnswered)

theorem runMicros_lifecycle {ms : List Micro} {s : State} (hl : s.hasLeft ms) (hi : s.lifecycleInv) :
    LifecycleTable s.lat.opr s (runMicros ms s) where
  other h1 h2 := by
    obtain ⟨-, all, hp, -, rfl⟩ := hl
    exact ((microProgram_sparesLState hp h1 h2).drop _).runMicros s
  cleanup h := by
    obtain ⟨-, all, hp, -, rfl⟩ := hl
    rw [microProgram, if_neg (by rw [h]; decide), if_pos h] at hp
    cases hp
    exact runMicros_cleanup_lstate s.upc s
  initialise ho := runMicros_bringup hl ho hi

theorem opcodeOf_initialise {i : Instr} (h : Laws.opcodeOf i = opInitialise) : i = .initialise := by
  cases i <;> simp [Laws.opcodeOf, opInitialise] at h ⊢

/-- An accepted INITIALIZE starts in `UNINITIALIZED`. -/
theorem accepted_lifecycleInv {s a : State} {i : Instr} (h : s.accepted i = some a) : a.lifecycleInv := by
  intro _ ho
  obtain rfl := opcodeOf_initialise ((accepted_opr h).symm.trans ho)
  have hadm := accepted_admitted h
  obtain ⟨lat, buf, ms, rfl, -⟩ := exec_accepted s a _ h
  exact of_decide_eq_true hadm

theorem exec_lifecycleInv {i : Instr} {s t : State} (h : exec i s = .next t) : t.lifecycleInv := by
  cases exec_cases h with
  | ran lat buf ms ha hp e => exact e ▸ runMicros_lifecycleInv (accept_hasLeft hp buf) (accepted_lifecycleInv ha)
  | refused e => exact e ▸ lifecycleInv_of_idle rfl
  | nothingToDraw e => exact e ▸ lifecycleInv_of_idle rfl

theorem exec_initialise_refused {s : State} (h : s.lstate ≠ .uninitialized) : exec .initialise s = .next s.refuse :=
  exec_refused _ s (.inl (decide_eq_false h))

/-- Every request behind its gate. -/
theorem exec_lifecycle {i : Instr} {s t : State} (h : exec i s = .next t)
    (hi : i = .initialise → s.lstate = .uninitialized) : LifecycleTable (Laws.opcodeOf i) s t := by
  by_cases hinit : i = .initialise
  · subst hinit
    obtain rfl := Host.Outcome.next.inj ((exec_initialise s (hi rfl)).symm.trans h)
    obtain ⟨hother, hcleanup, hbringup⟩ := runMicros_lifecycle (s := s.accept s.lat.ofInitialise s.argBuf)
      (accept_hasLeft rfl s.argBuf) fun _ _ => hi rfl
    exact ⟨hother, hcleanup, hbringup⟩
  · have kept (e : t.lstate = s.lstate) : LifecycleTable (Laws.opcodeOf i) s t :=
      ⟨fun _ _ => e, fun _ => .inl e, fun ho => absurd (opcodeOf_initialise ho) hinit⟩
    cases exec_cases h with
    | ran lat buf ms ha hp e =>
      obtain ⟨hother, hcleanup, hbringup⟩ := runMicros_lifecycle (accept_hasLeft hp buf) (accepted_lifecycleInv ha)
      rw [accepted_opr ha, ← e] at hother hcleanup hbringup
      exact ⟨hother, hcleanup, hbringup⟩
    | refused e => exact kept (by rw [e, State.refuse_lstate])
    | nothingToDraw e => exact kept (by rw [e, State.answer_lstate])

theorem currentOpcode_of_busy {s : State} (hb : s.busy = true) : s.currentOpcode = some s.lat.opr := by
  rw [State.currentOpcode, if_pos hb]

theorem currentOpcode_of_packet {s : State} {opr : Byte} {ops : List Byte} {rest : List Input} (hb : s.busy = false)
    (hi : s.inputs = .packet (opr :: ops) :: rest) : s.currentOpcode = some opr := by
  simp [State.currentOpcode, hb, hi]

/-- A packet that decodes shows the opcode of its request. -/
theorem currentOpcode_of_decoded {s : State} {p : List Byte} {rest : List Input} {i : Instr} (hb : s.busy = false)
    (hi : s.inputs = .packet p :: rest) (hd : decode p = .ok i) : s.currentOpcode = some (Laws.opcodeOf i) := by
  cases p with
  | nil => cases hd
  | cons opr ops =>
    obtain ⟨rfl, -⟩ := decode_shape hd
    exact currentOpcode_of_packet hb hi

/-- A step that works on a request keeps to the table, INITIALIZE being accepted in `UNINITIALIZED` only; any other
leaves `LSTATE` alone: nothing is presented, or the packet is refused. -/
theorem step_lifecycle {s t : State} (hinv : s.lifecycleInv) (h : step s = .next t)
    (hno : ∀ rest, s.inputs ≠ .ownReset :: rest) :
    (∃ opr, s.currentOpcode = some opr ∧ LifecycleTable opr s t ∧
      (opr = opInitialise → s.busy = false → s.lstate = .uninitialized)) ∨
    (s.busy = false ∧ t.lstate = s.lstate ∧ (s.currentOpcode = none ∨ t.status = .preconditionViolation)) := by
  cases step_cases h with
  | ownReset rest hi e => exact absurd hi (hno rest)
  | resumed ms hb hno hp hu e =>
    exact .inl ⟨s.lat.opr, currentOpcode_of_busy hb, e ▸ runMicros_lifecycle ⟨hb, ms, hp, hu, rfl⟩ hinv,
      fun _ hidle => by simp [hb] at hidle⟩
  | waited hb hi e => exact .inr ⟨hb, by rw [e], .inl (by simp [State.currentOpcode, hb, hi])⟩
  | executed p rest i hb hi hd he =>
    by_cases hrefused : i = .initialise ∧ s.lstate ≠ .uninitialized
    · obtain ⟨rfl, hl⟩ := hrefused
      obtain rfl := Host.Outcome.next.inj ((exec_initialise_refused (s := s.withInputs rest) hl).symm.trans he)
      exact .inr ⟨hb, rfl, .inr rfl⟩
    · have hstart (h : i = .initialise) : s.lstate = .uninitialized := not_not.1 fun hl => hrefused ⟨h, hl⟩
      obtain ⟨hother, hcleanup, hbringup⟩ := exec_lifecycle he hstart
      exact .inl ⟨Laws.opcodeOf i, currentOpcode_of_decoded hb hi hd, ⟨hother, hcleanup, hbringup⟩,
        fun ho _ => hstart (opcodeOf_initialise ho)⟩
  | undecodable p rest x hb hi hd e => exact .inr ⟨hb, by rw [e]; rfl, .inr (by rw [e]; rfl)⟩

/-- Settles O47: of all micro-programs only those of INITIALIZE (`runMicros_bringup`) and CLEANUP
(`runMicros_cleanup_lstate`) write `LSTATE`. -/
theorem lifecycleChangesOnlyByItsTable : Obligations.LifecycleChangesOnlyByItsTable := by
  refine ⟨fun s t i hb he => ⟨fun hi hc => ?other, fun hc => ?cleanup, fun hi hl => ?refused,
    fun hi hl ht => ?answered⟩, fun s t hinv hst hno => ?step⟩
  case other =>
    obtain ⟨hother, -, -⟩ := exec_lifecycle he fun h => absurd h hi
    exact hother (fun h => hi (opcodeOf_initialise h)) fun h => hc (opcodeOf_cleanup h)
  case cleanup =>
    subst hc
    obtain ⟨-, hcleanup, -⟩ := exec_lifecycle he nofun
    exact hcleanup rfl
  case refused =>
    subst hi
    obtain rfl := Host.Outcome.next.inj ((exec_initialise_refused hl).symm.trans he)
    exact s.refuse_lstate
  case answered =>
    subst hi
    obtain ⟨-, -, hbringup⟩ := exec_lifecycle he fun _ => hl
    exact (hbringup rfl).2 ht
  case step =>
    rcases step_lifecycle hinv hst hno with ⟨opr, ho, ⟨hother, hcleanup, hbringup⟩, hstart⟩ | ⟨hb, hl, hs⟩
    · rw [ho]
      refine ⟨fun hi hc => hother (hi ∘ congrArg some) (hc ∘ congrArg some), fun hc => hcleanup (Option.some.inj hc),
        fun hi => ?_⟩
      obtain ⟨hforward, hanswer⟩ := hbringup (Option.some.inj hi)
      exact ⟨hforward, fun hb hl => absurd (hstart (Option.some.inj hi) hb) hl, fun _ => hanswer⟩
    · refine ⟨fun _ _ => hl, fun _ => .inl hl, fun hi => ⟨by rw [hl], fun _ _ => hl, fun hor _ => ?_⟩⟩
      have hstatus : t.status = .preconditionViolation := hs.resolve_left (by simp [hi])
      have hstart : s.lstate = .uninitialized := hor.resolve_left (by simp [hb])
      simp [hstatus, hl, hstart]

/-- `INIT_TABLE` has an entry in every category (R8), so step (d) has a step. -/
theorem bringupTable_pos {c : Config} (hv : c.Valid) : 0 < (bringupTable c).length := by
  obtain ⟨-, -, -, -, -, ⟨hruns, -⟩, -⟩ := hv
  unfold bringupTable
  cases htable : c.initTable with
  | nil =>
    rw [htable] at hruns
    cases hruns
  | cons e es => simp [entryFrame, frame]

/-- One step of INITIALIZE, however it ends. -/
theorem perform_initialise_lstate {m : Micro} {ms : List Micro} {s : State} (hv : s.cfg.Valid)
    (hl : s.hasLeft (m :: ms)) (ho : s.lat.opr = opInitialise) (hinv : s.lifecycleInv) :
    (m.perform s).state.lstate = s.lstate ∨
      (m.perform s).state.lstate.code.toNat = s.lstate.code.toNat + 1 := by
  cases hp : m.perform s with
  | running t =>
    have ht : t.lstate = bringupLState (bringupTable s.cfg).length (s.upc + 1) :=
      (Stepped.of_running hp).bringupLState hl ho hinv
    rw [Progress.state, ht, hinv.lstate hl.1 ho]
    exact bringupLState_succ (bringupTable_pos hv) s.upc
  | ended t => exact .inl (perform_ended_initialise (List.mem_of_getElem? (hasLeft_initialise_head hl ho)) hp)
  | blocked t => exact .inl (Waits.of_blocked hp).lstate

/-- Settles O58: `LSTATE` is the function `bringupLState` of `UPC`, which rises by one state at a time
(`bringupLState_succ`); and each completed step keeps it so (`Stepped.lifecycleInv`). -/
theorem initializeSkipsNoLifecycleState : Obligations.InitializeSkipsNoLifecycleState := by
  refine ⟨fun s hv hinv hb ho => ?microStep, fun s t hinv hst => ?step⟩
  case microStep =>
    have hp := microProgram_initialise s.cfg ho
    cases hm : (initialiseProgram s.cfg)[s.upc]? with
    | none => exact .inl (by simp [State.microStep, hb, hp, hm])
    | some m =>
      obtain ⟨hlt, rfl⟩ := List.getElem?_eq_some_iff.1 hm
      have hl : s.hasLeft ((initialiseProgram s.cfg)[s.upc] :: (initialiseProgram s.cfg).drop (s.upc + 1)) :=
        ⟨hb, _, hp, hlt.le, List.drop_eq_getElem_cons hlt⟩
      rw [microStep_of_next hl]
      exact perform_initialise_lstate hv hl ho hinv
  case step =>
    cases step_cases hst with
    | ownReset rest hi e => exact e ▸ lifecycleInv_of_idle rfl
    | resumed ms hb hno hp hu e => exact e ▸ runMicros_lifecycleInv ⟨hb, ms, hp, hu, rfl⟩ hinv
    | waited hb hi e => exact e ▸ hinv
    | executed p rest i hb hi hd he => exact exec_lifecycleInv he
    | undecodable p rest x hb hi hd e => exact e ▸ lifecycleInv_of_idle rfl

end Sys2Proof.Machine
end

section
/-! # Family 60: exceptions

## A transfer that fails (R201, R204 to R206) -/

namespace Sys2Proof.Machine

/-! ### The lines are what the trace says (R38) -/

/-- What was appended to the trace since `s` tells an observer of it the lines of `t`. -/
def State.LinesTraced (s t : State) : Prop :=
  ∃ es, t.trace = s.trace ++ es ∧ t.wires = es.foldl Wires.see s.wires

theorem State.LinesTraced.refl (s : State) : s.LinesTraced s := ⟨[], (List.append_nil _).symm, rfl⟩

theorem State.LinesTraced.trans {s t u : State} (h : s.LinesTraced t) (k : t.LinesTraced u) : s.LinesTraced u := by
  obtain ⟨es, htrace, hwires⟩ := h
  obtain ⟨fs, htrace', hwires'⟩ := k
  exact ⟨es ++ fs, by rw [htrace', htrace, List.append_assoc], by rw [hwires', hwires, List.foldl_append]⟩

theorem State.LinesTraced.of_same {s t : State} (htrace : t.trace = s.trace) (hwires : t.wires = s.wires) :
    s.LinesTraced t :=
  ⟨[], htrace.trans (List.append_nil _).symm, hwires⟩

theorem State.LinesTraced.of_event {s t : State} {e : Event} (htrace : t.trace = s.trace ++ [e])
    (hwires : t.wires = s.wires.see e) : s.LinesTraced t :=
  ⟨[e], htrace, hwires⟩

theorem Stepped.linesTraced {m : Micro} {s t : State} (h : Stepped m s t) : s.LinesTraced t := by
  obtain ⟨e, he, htrace⟩ := h.trace
  refine .of_event htrace ?_
  calc t.wires = (s.view.after m).wires := congrArg View.wires h.view
    _ = (s.view.afterOp m.op).wires := View.wires_foldl_afterWrite _ _
    _ = s.wires.see e := View.wires_afterOp he _

theorem Ran.linesTraced {op : MicroOp} {s t : State} (h : Ran op s t) : s.LinesTraced t := by
  obtain ⟨e, he, htrace⟩ := h.trace
  exact .of_event htrace ((congrArg View.wires h.view).trans (View.wires_afterOp he _))

theorem State.abort_linesTraced (s : State) : s.LinesTraced s.abort := by
  cases h : s.cs.level with
  | true => exact .of_same (s.abort_released h).1 (s.abort_released h).2
  | false => exact .of_event (s.abort_asserted h).1 (s.abort_asserted h).2

theorem Micro.onError_linesTraced (m : Micro) (s : State) : s.LinesTraced (m.onError s) := by
  by_cases h : m.op = .busClose
  · rw [m.onError_busClose s h]
    exact .of_same (s.writeAll_kept m.writes).trace
      ((congrArg View.wires (s.view_writeAll m.writes)).trans (View.wires_foldl_afterWrite _ _))
  · rw [m.onError_eq_abort s h]
    exact s.abort_linesTraced

/-- A run of steps changes the lines by the events it appends and in no other way, whatever the transport answers. -/
theorem runMicros_linesTraced (ms : List Micro) (s : State) : s.LinesTraced (runMicros ms s) := by
  refine runMicros_induct (P := fun _ t => s.LinesTraced t) ?running ?ended ?blocked ?done ms s (.refl s)
  case running => exact fun m ms t u h hp => h.trans (Stepped.of_running hp).linesTraced
  case ended =>
    intro m ms t u h hp
    obtain ⟨v, rfl, r, -⟩ := Micro.perform_ended hp
    exact (h.trans r.linesTraced).trans (m.onError_linesTraced v)
  case blocked =>
    intro m ms t u h hp
    obtain ⟨tx, bus, n, rfl⟩ := (Waits.of_blocked hp).same
    exact h
  case done => exact fun t h => h

/-- The lines after a run, from the events it appended. -/
theorem runMicros_wires {ms : List Micro} {s : State} {es : List Event}
    (h : (runMicros ms s).trace = s.trace ++ es) : (runMicros ms s).wires = es.foldl Wires.see s.wires := by
  obtain ⟨fs, htrace, hwires⟩ := runMicros_linesTraced ms s
  rw [hwires, List.append_cancel_left (htrace.symm.trans h)]

/-! ### Chip-select is asserted at every transfer -/

/-- Every transfer of the list is made with chip-select asserted, from the view `v` on. -/
def SelectsAtTransfers (ms : List Micro) (v : View) : Prop := ∀ w ∈ txViews ms v, w.cs.level = false

theorem SelectsAtTransfers.append {xs ys : List Micro} {v : View} (hx : SelectsAtTransfers xs v)
    (hy : SelectsAtTransfers ys (v.afterAll xs)) : SelectsAtTransfers (xs ++ ys) v := by
  intro w hw
  rw [txViews_append] at hw
  exact (List.mem_append.1 hw).elim (hx w) (hy w)

theorem SelectsAtTransfers.viewAtTransfer {ms : List Micro} {v : View} (h : SelectsAtTransfers ms v) {k n : Nat}
    (hk : (txLengths ms v)[k]? = some n) : (Machine.viewAtTransfer k ms v).cs.level = false :=
  h _ (List.mem_of_getElem? (getElem?_txViews ms v k (List.getElem?_eq_some_iff.1 hk).1))

theorem frame_selectsAtTransfers (cmd : Byte) (args : Option TxSource) (v : View) :
    SelectsAtTransfers (frame cmd args) v :=
  fun w hw => congrArg LineReg.level (txViews_frame cmd args v w hw).cs

theorem window_selectsAtTransfers (c : Config) (x1 y1 x2 y2 : Word16) (dir : Dir) (v : View) :
    SelectsAtTransfers (window c x1 y1 x2 y2 dir) v := by
  rw [SelectsAtTransfers, window, txViews_thenWrite]
  simp [txViews, plain, View.opLengths, View.after, View.afterOp]

theorem rows_selectsAtTransfers (n : Nat) {v : View} (h : v.cs.level = false) :
    SelectsAtTransfers (List.replicate n (plain (.tx .rowBuf .row))) v := by
  induction n with
  | zero => exact fun w hw => absurd hw List.not_mem_nil
  | succ n ih =>
    intro w hw
    rcases List.mem_cons.1 hw with rfl | hw
    · exact h
    · exact ih w hw

theorem fillProgram_selectsAtTransfers (c : Config) (lat : Latches) (v : View) :
    SelectsAtTransfers (fillProgram c lat) v := by
  have hwindow : SelectsAtTransfers (thenWrite (.rowBuf (rowBytes lat.x1 lat.x2 lat.color))
      (window c lat.x1 lat.y1 lat.x2 lat.y2 .write)) v := by
    rw [SelectsAtTransfers, txViews_thenWrite]
    exact window_selectsAtTransfers _ _ _ _ _ _ v
  refine (hwindow.append ?rows).append ?release
  case rows => exact rows_selectsAtTransfers _ (by rw [View.afterAll_fillWindow]; rfl)
  case release => exact fun w hw => absurd hw List.not_mem_nil

/-! ### The end of the request -/

/-- How a request ends in `t` that was accepted in `s` and whose first failing transfer, answered `a`, is number `k` of
these events: the trace cut there, chip-select released, nothing after it run, and these replies left unused. -/
structure EndedAtTransfer (k : Nat) (a : TxAnswer) (events : List Event) (rest : List TxReply) (s t : State) :
    Prop where
  trace : t.trace = s.trace ++ cutAtTransfer k a events ++ [.line .cs true]
  status : t.status = .transportError
  responses : t.responses = s.responses ++ [0x01]
  busy : t.busy = false
  session : t.session = .closed
  wires : t.wires = (cutAtTransfer k a events ++ [Event.line .cs true]).foldl Wires.see s.wires
  selected : t.cs.level = true
  lstate : t.lstate = s.lstate
  txScript : t.txScript = rest
  busScript : t.busScript = s.busScript

/-- A micro-program with no bus call and no write of `LSTATE` whose transfer number `k` is the first that fails: the
abort path from that transfer, with chip-select asserted (R204). -/
theorem runMicros_fail {ms : List Micro} {s : State} {k n : Nat} {a : TxAnswer} {rest : List TxReply}
    (hcalls : busCalls ms = 0) (hlstate : SparesLState ms) (hselects : SelectsAtTransfers ms s.view)
    (hk : (txLengths ms s.view)[k]? = some n) (ha : a ≠ .ok n)
    (htx : s.txScript = okReplies ((txLengths ms s.view).take k) ++ .answer a :: rest) :
    EndedAtTransfer k a (okEvents ms s.view) rest s (runMicros ms s) := by
  obtain ⟨u, hrun, htrace, hview, htx', hbus, kept⟩ := runSeq_fail ms s k n a rest s.busScript hk ha htx rfl
    fun m hm => List.sum_eq_zero_iff.1 hcalls _ (List.mem_map_of_mem hm)
  have hend : runMicros ms s = u.abort := by rw [runMicros, hrun, Progress.finish]
  have hcs : u.cs.level = false := (congrArg (·.cs.level) hview).trans (hselects.viewAtTransfer hk)
  have hcut : (runMicros ms s).trace = s.trace ++ (cutAtTransfer k a (okEvents ms s.view) ++ [.line .cs true]) := by
    rw [hend, (u.abort_asserted hcs).1, htrace, List.append_assoc]
  exact
    { trace := hcut.trans (List.append_assoc _ _ _).symm
      status := by rw [hend, State.abort_status]
      responses := by rw [hend, State.abort_responses, kept.responses]; rfl
      busy := by rw [hend, State.abort_busy]
      session := by rw [hend, State.abort_session]
      wires := runMicros_wires hcut
      selected := by rw [hend, State.abort_cs_level]
      lstate := hlstate.runMicros s
      txScript := by rw [hend, State.abort_txScript, htx']
      busScript := by rw [hend, State.abort_busScript, hbus] }

/-- The request, presented in `s`, runs a micro-program that makes these events and transfers when every call succeeds;
it makes no bus call, writes no `LSTATE` and asserts chip-select at every transfer. -/
structure RunsTransfers (i : Instr) (s : State) (lat : Latches) (buf : List Byte) (ms : List Micro)
    (events : List Event) (lengths : List Nat) : Prop where
  runs : exec i s = .next (runMicros ms (s.accept lat buf))
  events : okEvents ms (s.accept lat buf).view = events
  lengths : txLengths ms (s.accept lat buf).view = lengths
  busCalls : busCalls ms = 0
  sparesLState : SparesLState ms
  selects : SelectsAtTransfers ms (s.accept lat buf).view

theorem RunsTransfers.fail {i : Instr} {s : State} {lat : Latches} {buf : List Byte} {ms : List Micro}
    {events : List Event} {lengths : List Nat} (h : RunsTransfers i s lat buf ms events lengths) {k n : Nat}
    {a : TxAnswer} {rest : List TxReply} (hk : lengths[k]? = some n) (ha : a ≠ .ok n)
    (htx : s.txScript = okReplies (lengths.take k) ++ .answer a :: rest) :
    ∃ t, exec i s = .next t ∧ EndedAtTransfer k a events rest s t := by
  obtain ⟨hruns, rfl, rfl, hcalls, hlstate, hselects⟩ := h
  have hend := runMicros_fail hcalls hlstate hselects hk ha htx
  exact ⟨_, hruns, hend.trace, hend.status, hend.responses, hend.busy, hend.session, hend.wires, hend.selected,
    hend.lstate, hend.txScript, hend.busScript⟩

/-! ### The three requests (R140, R150, R166) -/

theorem send_runsTransfers {s : State} {cmd : Byte} {args : List Byte} (hl : s.lstate = .active)
    (hs : s.session = .closed) (hc : cmd ∈ s.cfg.cmdSet) (hlen : args.length ≤ 65535) :
    RunsTransfers (.send cmd args) s (s.lat.ofSend cmd args) args (sendProgram (s.lat.ofSend cmd args))
      (commandFrame cmd args) (frameLengths args) := by
  obtain ⟨hevents, hlengths, -⟩ := sendProgram_spec cmd args s.lat (s.accept (s.lat.ofSend cmd args) args).view hlen
    (take_narg args hlen)
  exact ⟨exec_send s cmd args hl hs hc, hevents, hlengths, frame_busCalls _ _, frame_sparesLState _ _,
    frame_selectsAtTransfers _ _ _⟩

theorem setWindow_runsTransfers {s : State} (dir : Dir) {x1 y1 x2 y2 : Word16} (hl : s.lstate = .active)
    (hs : s.session = .closed)
    (hregion : x1.toNat ≤ x2.toNat ∧ x2.toNat < s.cfg.width ∧ y1.toNat ≤ y2.toNat ∧ y2.toNat < s.cfg.height) :
    RunsTransfers (.setWindow dir x1 y1 x2 y2) s (s.lat.ofSetWindow dir x1 y1 x2 y2) s.argBuf
      (window s.cfg x1 y1 x2 y2 dir) (windowFrame s.cfg x1 y1 x2 y2 dir) windowLengths :=
  ⟨exec_setWindow s dir x1 y1 x2 y2 hl hs hregion, okEvents_window _ _ _ _ _ _ _, txLengths_window _ _ _ _ _ _ _, rfl,
    window_sparesLState _ _ _ _ _ _, window_selectsAtTransfers _ _ _ _ _ _ _⟩

theorem fillRect_runsTransfers {s : State} {x y w h x2 y2 : Word16} (color : Word16) (hl : s.lstate = .active)
    (hs : s.session = .closed) (hc : clipsTo s.cfg x y w h x2 y2) :
    RunsTransfers (.fillRect x y w h color) s (s.lat.ofFillRect x y w h color x2 y2) s.argBuf
      (fillProgram s.cfg (s.lat.ofFillRect x y w h color x2 y2)) (fillEvents s.cfg x y x2 y2 color)
      (fillLengths x y x2 y2) := by
  have hbody := fillBody_of_clip color (clip_eq_some s.cfg x y w h x2 y2 hc)
  exact ⟨(exec_fillRect s x y w h color hl hs).trans (congrArg _ hbody), okEvents_fillProgram _ _ _,
    txLengths_fillProgram _ _ _, busCalls_fillProgram _ _, fillProgram_sparesLState _ _,
    fillProgram_selectsAtTransfers _ _ _⟩

/-- Settles O30: every transfer of the three micro-programs is made with chip-select asserted, so the abort path appends
one `LINE(CS,1)` (`runMicros_fail`), and the lines follow the trace (`runMicros_wires`). -/
theorem failedTransferEndsTheRequest : Obligations.FailedTransferEndsTheRequest := by
  intro s k n a rest i events lengths hb hl hs hreq hk ha htx
  have hend : ∃ t, exec i s = .next t ∧ EndedAtTransfer k a events rest s t := by
    rcases hreq with ⟨cmd, args, rfl, hc, hlen, rfl, rfl⟩ |
      ⟨dir, x1, y1, x2, y2, rfl, hx, hx2, hy, hy2, rfl, rfl⟩ | ⟨x, y, w, h, color, x2, y2, rfl, hc, rfl, rfl⟩
    · exact (send_runsTransfers hl hs hc hlen).fail hk ha htx
    · exact (setWindow_runsTransfers dir hl hs ⟨hx, hx2, hy, hy2⟩).fail hk ha htx
    · exact (fillRect_runsTransfers color hl hs hc).fail hk ha htx
  obtain ⟨t, he, h⟩ := hend
  exact ⟨t, he, h.trace, h.status, h.responses, h.busy, h.session, h.wires, h.selected, h.lstate, h.txScript,
    h.busScript⟩

/-- Settles O29, field by field (`State.abort_trace` and its like); only `bus_close` has another error path. -/
theorem abortPathReleasesChipSelect : Obligations.AbortPathReleasesChipSelect :=
  fun s => ⟨fun _ _ _ => rfl, fun _ => rfl, s.abort_trace, s.abort_cs_level, s.abort_cs_oe, s.abort_session,
    s.abort_status, s.abort_responses, s.abort_busy, s.abort_lstate, s.abort_dc, s.abort_rst, s.abort_cfg,
    s.abort_inputs, s.abort_txScript, s.abort_busScript⟩

end Sys2Proof.Machine
end

section
/-! ## Refusals (R200, R202, R203, R210, R215, R216) -/

namespace Sys2Proof.Machine

/-! ### Illegal operands (R93, R216) -/

/-- A command outside `CMD_SET` is refused in every mode. -/
theorem exec_send_unknown {s : State} {cmd : Byte} (hc : cmd ∉ s.cfg.cmdSet) (args : List Byte) :
    exec (.send cmd args) s = .next s.refuse :=
  exec_refused _ s (.inr (by simpa [operandsLegal, commandKnown] using hc))

/-- An inverted region, or one past the panel, is refused in every mode. -/
theorem exec_setWindow_illegal {s : State} (dir : Dir) {x1 y1 x2 y2 : Word16}
    (h : ¬ (x1.toNat ≤ x2.toNat ∧ x2.toNat < s.cfg.width ∧ y1.toNat ≤ y2.toNat ∧ y2.toNat < s.cfg.height)) :
    exec (.setWindow dir x1 y1 x2 y2) s = .next s.refuse :=
  exec_refused _ s (.inr (Bool.eq_false_iff.2 (mt (regionLegal_iff _ _ _ _ _).1 h)))

theorem decode_illegalDir {d : Byte} (h0 : d ≠ 0x00) (h1 : d ≠ 0x01) (a1 a0 b1 b0 c1 c0 e1 e0 : Byte) :
    decode [0x20, d, a1, a0, b1, b0, c1, c0, e1, e0] = .error (.illegalDir d) := by
  have hdir : dirOfByte d = .error (.illegalDir d) := by rw [dirOfByte, if_neg h0, if_neg h1]
  have hformat : decode [0x20, d, a1, a0, b1, b0, c1, c0, e1, e0] = decodeW [d, a1, a0, b1, b0, c1, c0, e1, e0] := rfl
  rw [hformat, decodeW, hdir]

/-- Settles O10: one operand check for each request of R216, and the decoder for an illegal `DIR` byte (log 20). -/
theorem illegalOperandsRefused : Obligations.IllegalOperandsRefused := by
  refine fun s hb => ⟨fun cmd hc => ?command, fun dir x1 y1 x2 y2 h => ?region, exec_stream_refused (.inr rfl),
    fun d a1 a0 b1 b0 c1 c0 e1 e0 rest h0 h1 hi => ?direction⟩
  case command => exact ⟨exec_sendBare_refused s cmd (.inr (.inr hc)), exec_send_unknown hc⟩
  case region => exact exec_setWindow_illegal dir h
  case direction => exact step_of_undecodable hb hi (decode_illegalDir h0 h1 a1 a0 b1 b0 c1 c0 e1 e0)

/-! ### Requests that are not admitted (R203, R215) -/

theorem commandMode_eq_false {s : State} (h : s.lstate ≠ .active ∨ s.session ≠ .closed) : s.commandMode = false :=
  Bool.eq_false_iff.2 (mt (commandMode_iff s).1 (not_and_or.2 h))

/-- Settles O11: in each row the condition makes the admission test fail, and the gate takes the refusal path. -/
theorem unadmittedRequestsRefused : Obligations.UnadmittedRequestsRefused := by
  intro s i hb h
  refine exec_refused i s (.inl ?_)
  rcases h with ⟨rfl, h⟩ | ⟨rfl, h⟩ | ⟨⟨cmd, rfl⟩, h⟩ | ⟨⟨cmd, args, rfl⟩, h⟩ | ⟨⟨dir, x1, y1, x2, y2, rfl⟩, h⟩ |
    ⟨⟨data, rfl⟩, h⟩ | ⟨rfl, h⟩ | ⟨⟨x, y, w, k, color, rfl⟩, h⟩
  · exact decide_eq_false h
  · rcases h with h | h <;> simp [requestAdmitted, h]
  · exact commandMode_eq_false h
  · exact commandMode_eq_false h
  · exact commandMode_eq_false h
  · exact decide_eq_false h
  · exact decide_eq_false (not_not_intro h)
  · exact commandMode_eq_false h

/-! ### Admitted requests with legal operands (R200, R202) -/

theorem Status.ok_or_transportError {st : Status} (h : st ≠ .preconditionViolation) :
    st = .ok ∨ st = .transportError := by
  cases st with
  | ok => exact .inl rfl
  | transportError => exact .inr rfl
  | preconditionViolation => exact absurd rfl h

/-- A request that runs its micro-program answers `OK` or `TRANSPORT_ERROR`. -/
theorem status_of_ran {i : Instr} {s t : State} {lat : Latches} {buf : List Byte} {ms : List Micro}
    (he : exec i s = .next t) (ht : t.busy = false) (hrun : exec i s = .next (runMicros ms (s.accept lat buf))) :
    t.status = .ok ∨ t.status = .transportError := by
  obtain rfl : t = runMicros ms (s.accept lat buf) := Host.Outcome.next.inj (he.symm.trans hrun)
  exact Status.ok_or_transportError (runMicros_status ms _ rfl ht)

/-- FILL_RECT in command mode, whatever its geometry: it draws, or there is nothing to draw (R165, R202). -/
theorem status_of_fillRect {s t : State} {x y w h color : Word16} (hl : s.lstate = .active) (hs : s.session = .closed)
    (he : exec (.fillRect x y w h color) s = .next t) (ht : t.busy = false) :
    t.status = .ok ∨ t.status = .transportError := by
  have hrun := exec_fillRect s x y w h color hl hs
  cases hclip : clip s.cfg x y w h with
  | none =>
    obtain rfl : t = fillBody x y w h color s := Host.Outcome.next.inj (he.symm.trans hrun)
    rw [fillBody, hclip]
    exact .inl rfl
  | some c => exact status_of_ran he ht (hrun.trans (congrArg _ (fillBody_of_clip color hclip)))

/-- Settles O12: behind an open gate the request runs its micro-program, and no step of one leads to the refusal path
(`runMicros_status`). -/
theorem admittedRequestsNeverRefused : Obligations.AdmittedRequestsNeverRefused := by
  intro s t i hb he ht h
  cases i with
  | initialise => exact status_of_ran he ht (exec_initialise s h)
  | cleanup =>
    obtain ⟨hl, hs⟩ := h
    exact status_of_ran he ht (exec_cleanup s hl hs)
  | sendBare cmd =>
    obtain ⟨hl, hs, hc⟩ := h
    exact status_of_ran he ht (exec_sendBare s cmd hl hs hc)
  | send cmd args =>
    obtain ⟨hl, hs, hc⟩ := h
    exact status_of_ran he ht (exec_send s cmd args hl hs hc)
  | setWindow dir x1 y1 x2 y2 =>
    obtain ⟨hl, hs, hregion⟩ := h
    exact status_of_ran he ht (exec_setWindow s dir x1 y1 x2 y2 hl hs hregion)
  | stream data =>
    obtain ⟨hs, hd⟩ := h
    exact status_of_ran he ht (exec_stream s data hs hd)
  | endSession => exact status_of_ran he ht (exec_endSession s h)
  | fillRect x y w k color =>
    obtain ⟨hl, hs⟩ := h
    exact status_of_fillRect hl hs he ht

end Sys2Proof.Machine
end

section
/-! # Family 70: reset and hazards

## The framer's own reset (R40, R240, R241) -/

namespace Sys2Proof.Machine

/-- A line whose output enable is 0 has no level (R31). -/
theorem State.pin_of_undriven {s : State} {p : Line} (h : (s.lineReg p).oe = false) : s.pin p = none := by
  simp [State.pin, h]

/-- After the own reset no line is driven (R40). -/
theorem State.ownReset_pin (s : State) (p : Line) : s.ownReset.pin p = none :=
  State.pin_of_undriven (by cases p <;> rfl)

theorem State.reset_pin (p : Line) : State.reset.pin p = none :=
  State.pin_of_undriven (by cases p <;> rfl)

/-- Settles O1: the registers field by field; a reset framer is idle, so with nothing presented it waits. -/
theorem ownResetGivesResetValues : Obligations.OwnResetGivesResetValues :=
  fun s => ⟨s.ownReset_lstate, s.ownReset_session, s.ownReset_status, s.ownReset_busy, rfl, rfl, rfl, s.ownReset_pin,
    s.ownReset_trace, s.ownReset_cfg, fun hi => step_of_idle s.ownReset_busy (s.ownReset_inputs.trans hi),
    rfl, rfl, rfl, rfl, State.reset_pin, rfl⟩

/-- Settles O2: the next input decides before `BUSY` is looked at (`step_of_ownReset`). -/
theorem ownResetStrikesAtAnyMoment : Obligations.OwnResetStrikesAtAnyMoment :=
  fun _ _ hi => ⟨_, step_of_ownReset hi, State.ownReset_busy _, State.ownReset_session _, State.ownReset_lstate _,
    State.ownReset_pin _, State.ownReset_trace _, State.ownReset_inputs _, State.ownReset_cfg _⟩

end Sys2Proof.Machine
end

section
/-! ## Every request is answered where the transport answers every call (R81, R253) -/

namespace Sys2Proof.Machine

/-- A step that fails answers the request once, with `TRANSPORT_ERROR`. -/
theorem Micro.onError_responses (m : Micro) (s : State) :
    (m.onError s).responses = s.responses ++ [(m.onError s).status.byte] := by
  rw [m.onError_status]
  by_cases h : m.op = .busClose
  · rw [m.onError_busClose s h, State.respond_responses, (s.writeAll_kept m.writes).responses]
  · rw [m.onError_eq_abort s h, State.abort_responses]

theorem Completed.answersAtOnce {ms : List Micro} {s t : State} (h : Completed ms s t) (ha : s.answersAtOnce) :
    t.answersAtOnce :=
  ⟨fun ht => ha.1 (h.txScript _ ht), fun hb => ha.2 (h.busScript _ hb)⟩

/-- Where the transport keeps no call waiting, no step waits. -/
theorem State.answersAtOnce.not_waits {s t : State} (h : s.answersAtOnce) : ¬ Waits s t :=
  fun w => w.late.elim h.1 h.2

/-- The framer is idle again and has given exactly one more response than in `s`, the code of `STATUS` (R32, R103). -/
structure AnsweredOnce (s t : State) : Prop where
  busy : t.busy = false
  responses : t.responses = s.responses ++ [t.status.byte]

theorem runMicros_answeredOnce (ms : List Micro) {s : State} (h : s.answersAtOnce) :
    AnsweredOnce s (runMicros ms s) := by
  cases runMicros_cases ms s with
  | answered u k e => rw [e]; exact ⟨u.respond_busy .ok, congrArg (· ++ _) k.kept.responses⟩
  | failed pre m post v u hms k r hc e =>
    rw [e]
    exact ⟨m.onError_busy u, by rw [m.onError_responses, r.responses, k.kept.responses]⟩
  | waiting pre m post v hms k w => exact absurd w (k.answersAtOnce h).not_waits

/-- Settles O42: a request that runs its micro-program is answered after its last step or by the one that fails
(`runMicros_answeredOnce`); any other is answered at once. -/
theorem everyRequestTerminates : Obligations.EveryRequestTerminates := by
  intro s i hb h
  obtain ⟨t, he⟩ := exec_next i s
  refine ⟨t, he, ?_⟩
  cases exec_cases he with
  | ran lat buf ms ha hp e =>
    have hrun : AnsweredOnce (s.accept lat buf) t := e ▸ runMicros_answeredOnce ms h
    exact ⟨hrun.busy, hrun.responses⟩
  | refused e => subst e; exact ⟨rfl, rfl⟩
  | nothingToDraw e => subst e; exact ⟨rfl, rfl⟩

end Sys2Proof.Machine
end

section
/-! ## Window before pixels (R249), under the reference controller of R66 (log 13) -/

namespace Sys2Proof.Machine

/-! ### Lists of steps that end with a window, or with no session for writing -/

/-- A list that does not leave a session for writing open has nothing to show. -/
theorem windowRun_of_session {g : Config} {ms : List Micro} {v : View}
    (h : (v.afterAll ms).session ≠ .openWrite) (c : Controller) : Controller.windowRun g ms v c := by
  induction ms generalizing v c with
  | nil => exact fun hs => absurd hs h
  | cons m ms ih => exact ⟨fun _ => ih h _, fun _ d => ih h d⟩

/-- For a list that does not reset the controller, the controller after all its steps decides. -/
theorem windowRun_of_afterAll {g : Config} {ms : List Micro} {v : View} {c : Controller}
    (hk : ∀ m ∈ ms, m.keepsController)
    (h : (v.afterAll ms).session = .openWrite → (Controller.afterAll g ms v c).hasWindow g) :
    Controller.windowRun g ms v c := by
  induction ms generalizing v c with
  | nil => exact h
  | cons m ms ih =>
    exact ⟨fun _ => ih (fun x hx => hk x (List.mem_cons_of_mem m hx)) h,
      fun hreset => absurd hreset (hk m List.mem_cons_self)⟩

/-! ### Pixels leave the window as it is -/

/-- A data byte of a memory-write leaves the window and the operation as they are, full window or not (log 15). -/
theorem Controller.hasWindow.param {g : Config} {c : Controller} (h : c.hasWindow g) (b : Byte) :
    (c.param g b).hasWindow g := by
  obtain ⟨x1, x2, y1, y2, op, ps, k, fb⟩ := c
  obtain ⟨rfl, hbounds⟩ := h
  cases ps with
  | nil => exact ⟨rfl, hbounds⟩
  | cons p ps =>
    rw [Controller.param]
    dsimp only [Controller.storePixel]
    split_ifs <;> exact ⟨rfl, hbounds⟩

theorem Controller.hasWindow.receive {g : Config} {c : Controller} (h : c.hasWindow g) (cs : Level)
    (bytes : List Byte) : (c.receive g cs true bytes).hasWindow g := by
  cases cs with
  | true => exact h
  | false =>
    induction bytes generalizing c with
    | nil => exact h
    | cons b bs ih => exact ih (h.param b)

/-! ### The invariant between requests and on the way through one -/

theorem windowInv_of_idle {s : State} (hb : s.busy = false) (h : s.session = .openWrite → s.ctl.hasWindow s.cfg) :
    s.windowInv :=
  ⟨fun _ => h, fun hrun => by simp [hb] at hrun⟩

/-- With no session for writing open an idle framer promises no window. -/
theorem windowInv_of_closed {s : State} (hb : s.busy = false) (hs : s.session = .closed) : s.windowInv :=
  windowInv_of_idle hb fun hopen => by simp [hs] at hopen

theorem State.windowInv.windowRun {s : State} {ms : List Micro} (h : s.windowInv) (hl : s.hasLeft ms) :
    Controller.windowRun s.cfg ms s.view s.ctl := by
  obtain ⟨hb, all, hp, -, rfl⟩ := hl
  exact h.2 hb all hp

theorem windowInv_of_windowRun {s : State} {ms : List Micro} (hl : s.hasLeft ms)
    (h : Controller.windowRun s.cfg ms s.view s.ctl) : s.windowInv := by
  obtain ⟨hb, all, hp, -, rfl⟩ := hl
  refine ⟨fun hidle => by simp [hb] at hidle, fun _ all' hp' => ?_⟩
  obtain rfl := Option.some.inj (hp.symm.trans hp')
  exact h

theorem Waits.windowInv {s t : State} (h : Waits s t) (hw : s.windowInv) : t.windowInv := by
  obtain ⟨tx, bus, n, rfl⟩ := h.same
  exact hw

theorem Micro.windowInv_running {m : Micro} {ms : List Micro} {s t : State} (hl : s.hasLeft (m :: ms))
    (hw : s.windowInv) (hp : m.perform s = .running t) : t.windowInv := by
  have st := Stepped.of_running hp
  obtain ⟨hkeeps, hreset⟩ := hw.windowRun hl
  refine windowInv_of_windowRun (st.hasLeft hl) ?_
  rw [st.cfg, st.view]
  by_cases hm : m.op = .line .rst false
  · exact hreset hm t.ctl
  · rw [m.perform_ctl s t hp hm]
    exact hkeeps hm

/-- However a `bus_close` ends, it leaves the controller alone. -/
theorem Micro.perform_busClose_ctl {m : Micro} (h : m.op = .busClose) (s : State) :
    (m.perform s).state.ctl = s.ctl := by
  have hclose := s.busClose_ctl
  rw [Micro.perform, h, MicroOp.run]
  cases hx : s.busClose with
  | completed t => rw [hx] at hclose; exact (t.writeAll_kept m.writes).ctl.trans hclose
  | raised t =>
    rw [hx] at hclose
    rw [Progress.state, m.onError_busClose t h]
    exact (t.writeAll_kept m.writes).ctl.trans hclose
  | blocked t => rw [hx] at hclose; exact hclose

/-- A failing step closes the session, except that CLEANUP's leaves session and controller as they are (R186, R204). -/
theorem Micro.windowInv_ended {m : Micro} {ms : List Micro} {s t : State} (hl : s.hasLeft (m :: ms))
    (hw : s.windowInv) (hp : m.perform s = .ended t) : t.windowInv := by
  have hrun := hw.windowRun hl
  obtain ⟨-, all, hprogram, -, hd⟩ := hl
  obtain ⟨u, rfl, r, -⟩ := Micro.perform_ended hp
  rcases microProgram_drop_closes hprogram s.upc with ⟨-, hcleanup⟩ | hn
  · obtain ⟨rfl, rfl⟩ := List.cons.inj (hd.symm.trans hcleanup)
    refine windowInv_of_idle (Micro.onError_busy _ u) fun hopen => ?_
    have hctl := Micro.perform_busClose_ctl (m := ⟨.busClose, [.lstate .uninitialized]⟩) rfl s
    rw [hp, Progress.state] at hctl
    rw [hctl, Micro.onError_cfg, r.cfg]
    exact hrun.1 nofun (r.session.symm.trans hopen)
  · rw [m.onError_eq_abort u (hn m (by simp [hd]))]
    exact windowInv_of_closed u.abort_busy u.abort_session

theorem runMicros_windowInv {ms : List Micro} {s : State} (hl : s.hasLeft ms) (hw : s.windowInv) :
    (runMicros ms s).windowInv := by
  refine runMicros_induct (P := fun ms u => u.hasLeft ms ∧ u.windowInv) (Q := State.windowInv)
    ?running ?ended ?blocked ?done ms s ⟨hl, hw⟩
  case running => exact fun m ms u t ⟨hl, hw⟩ hp => ⟨(Stepped.of_running hp).hasLeft hl, m.windowInv_running hl hw hp⟩
  case ended => exact fun m ms u t ⟨hl, hw⟩ hp => m.windowInv_ended hl hw hp
  case blocked => exact fun m ms u t ⟨_, hw⟩ hp => (Waits.of_blocked hp).windowInv hw
  case done => exact fun u ⟨hl, hw⟩ => windowInv_of_idle (u.respond_busy .ok) (hw.windowRun hl)

/-! ### Acceptance -/

/-- Between requests, with a session for writing open, STREAM's data are pixels: `DC` is high. -/
theorem streamProgram_windowRun {g : Config} {v : View} {c : Controller} (hdc : v.dc.level = true)
    (h : v.session = .openWrite → c.hasWindow g) : Controller.windowRun g streamProgram v c := by
  refine windowRun_of_afterAll streamProgram_keepsController fun hs => ?_
  have hafter : Controller.afterAll g streamProgram v c = c.receive g v.cs.level v.dc.level v.argBytes := rfl
  rw [hafter, hdc]
  exact (h hs).receive _ _

/-- A legal SET_WINDOW ends with the window it names, if it is for writing (R150, R151). -/
theorem window_windowRun {g : Config} (hg : g.OpcodesOk) {x1 y1 x2 y2 : Word16} (dir : Dir)
    (h : x1.toNat ≤ x2.toNat ∧ x2.toNat < g.width ∧ y1.toNat ≤ y2.toNat ∧ y2.toNat < g.height) (v : View)
    (c : Controller) : Controller.windowRun g (window g x1 y1 x2 y2 dir) v c := by
  cases dir with
  | read => exact windowRun_of_session (by simp [View.afterAll_window, Session.ofDir]) c
  | write =>
    refine windowRun_of_afterAll (window_keepsController g x1 y1 x2 y2 .write) fun _ => ?_
    rw [Controller.afterAll_fillWindow hg]
    exact ⟨rfl, h⟩

/-- END_SESSION leaves no session open (R163). -/
theorem endSessionProgram_windowRun (g : Config) (v : View) (c : Controller) :
    Controller.windowRun g endSessionProgram v c :=
  have hs : (v.afterAll endSessionProgram).session ≠ .openWrite := (by decide : Session.closed ≠ .openWrite)
  windowRun_of_session hs c

/-- A micro-program other than SET_WINDOW's opens no session (R23). -/
theorem microProgram_windowRun {g : Config} {lat : Latches} {ms : List Micro} (hp : microProgram g lat = some ms)
    (ho : lat.opr ≠ opSetWindow) {v : View} (hs : v.session = .closed) (c : Controller) :
    Controller.windowRun g ms v c := by
  refine windowRun_of_session ?_ c
  rcases microProgram_session hp v with h | h | ⟨h, -⟩
  · simp [h, hs]
  · simp [h]
  · exact absurd h ho

theorem accepted_windowInv_of_closed {s a : State} {i : Instr} (hs : s.session = .closed)
    (ha : s.accepted i = some a) (hi : ∀ dir x1 y1 x2 y2, i ≠ .setWindow dir x1 y1 x2 y2) : a.windowInv := by
  have hopr := accepted_opr ha
  obtain ⟨lat, buf, ms, rfl, hp, -⟩ := exec_accepted s a i ha
  refine windowInv_of_windowRun (accept_hasLeft hp buf) (microProgram_windowRun hp (fun ho => ?_) hs s.ctl)
  obtain ⟨dir, x1, y1, x2, y2, hwindow⟩ := opcodeOf_setWindow (hopr.symm.trans ho)
  exact hi dir x1 y1 x2 y2 hwindow

/-- Acceptance promises a window: STREAM and END_SESSION find the one of the open session, SET_WINDOW sets its own, and
every other request is admitted with the session closed (R215). -/
theorem accepted_windowInv {s a : State} {i : Instr} (h : s.inv) (hw : s.windowInv) (hb : s.busy = false)
    (ha : s.accepted i = some a) : a.windowInv := by
  obtain ⟨⟨-, -, -, -, hg, -⟩, -, hrest, -⟩ := h
  have hadm := accepted_admitted ha
  have inCommandMode (hm : s.commandMode = true) : s.session = .closed := ((commandMode_iff s).1 hm).2
  cases i with
  | initialise =>
    have hl : s.lstate = .uninitialized := of_decide_eq_true hadm
    have hs : s.session = .closed := View.session_closed_of_atRest (hrest hb) (by simp [State.view, hl])
    exact accepted_windowInv_of_closed hs ha nofun
  | cleanup =>
    have hs : s.lstate ≠ .uninitialized ∧ s.session = .closed := by simpa [requestAdmitted] using hadm
    exact accepted_windowInv_of_closed hs.2 ha nofun
  | sendBare cmd => exact accepted_windowInv_of_closed (inCommandMode hadm) ha nofun
  | send cmd args => exact accepted_windowInv_of_closed (inCommandMode hadm) ha nofun
  | fillRect x y w k color => exact accepted_windowInv_of_closed (inCommandMode hadm) ha nofun
  | endSession =>
    unfold State.accepted at ha
    split_ifs at ha
    cases ha
    exact windowInv_of_windowRun (accept_hasLeft rfl _) (endSessionProgram_windowRun s.cfg _ s.ctl)
  | stream data =>
    unfold State.accepted at ha
    split_ifs at ha
    cases ha
    have hs : s.session = .openWrite := of_decide_eq_true hadm
    have hdc : s.dc.level = true := (View.transferReady_of_open (hrest hb) (by simp [State.view, hs])).2
    exact windowInv_of_windowRun (accept_hasLeft rfl _) (streamProgram_windowRun hdc (hw.1 hb))
  | setWindow dir x1 y1 x2 y2 =>
    unfold State.accepted at ha
    split_ifs at ha with hgate
    cases ha
    have hregion := (regionLegal_iff _ _ _ _ _).1 (Bool.and_eq_true_iff.1 hgate).2
    exact windowInv_of_windowRun (accept_hasLeft rfl _) (window_windowRun hg dir hregion _ s.ctl)

/-! ### Every request and every step (R249) -/

theorem exec_windowInv {s t : State} {i : Instr} (h : s.inv) (hw : s.windowInv) (hb : s.busy = false)
    (he : exec i s = .next t) : t.windowInv := by
  cases exec_cases he with
  | ran lat buf ms ha hp e => exact e ▸ runMicros_windowInv (accept_hasLeft hp buf) (accepted_windowInv h hw hb ha)
  | refused e => exact e ▸ windowInv_of_idle rfl (hw.1 hb)
  | nothingToDraw e => exact e ▸ windowInv_of_idle rfl (hw.1 hb)

theorem step_windowInv {s t : State} (h : s.inv) (hw : s.windowInv) (hst : step s = .next t) : t.windowInv := by
  cases step_cases hst with
  | ownReset rest hi e => exact e ▸ windowInv_of_closed rfl rfl
  | resumed ms hb hno hp hu e => exact e ▸ runMicros_windowInv ⟨hb, ms, hp, hu, rfl⟩ hw
  | waited hb hi e => exact e ▸ hw
  | executed p rest i hb hi hd he => exact exec_windowInv (s.withInputs_inv h rest) hw hb he
  | undecodable p rest x hb hi hd e => exact e ▸ windowInv_of_idle rfl (hw.1 hb)

/-- Settles O40: acceptance promises a window at the end of a request that will leave a session for writing open
(`accepted_windowInv`), and every step of a micro-program keeps the promise (`runMicros_windowInv`). -/
theorem openWriteSessionHasAWindow : Obligations.OpenWriteSessionHasAWindow :=
  ⟨fun _ hw => hw.1, fun _ _ _ h hw hb he => exec_windowInv h hw hb he, fun _ _ h hw hst => step_windowInv h hw hst⟩

end Sys2Proof.Machine
end

section
/-! ## INITIALIZE and the frame memory (R243, U12), under the reference controller of R66 (logs 13, 16) -/

namespace Sys2Proof.Machine

/-! ### Completed steps and what a running request has left -/

theorem Completed.hasLeft {xs ys : List Micro} {s t : State} (h : Completed xs s t) (hl : s.hasLeft (xs ++ ys)) :
    t.hasLeft ys := by
  obtain ⟨hb, all, hp, hu, hd⟩ := hl
  refine ⟨h.kept.busy.trans hb, all, by rw [h.kept.cfg, h.kept.lat, hp], ?_, ?_⟩
  · have hlen := congrArg List.length hd
    rw [List.length_drop, List.length_append] at hlen
    rw [h.upc]
    omega
  · rw [h.upc, ← List.drop_drop, hd, List.drop_left]

/-- Completed steps of a running request keep the lifecycle what its steps so far have made of it. -/
theorem Completed.lifecycleInv {xs ys : List Micro} {s t : State} (h : Completed xs s t) (hl : s.hasLeft (xs ++ ys))
    (hi : s.lifecycleInv) : t.lifecycleInv := by
  intro _ ho
  rw [h.kept.lat] at ho
  obtain ⟨-, hd⟩ := hasLeft_initialise hl ho
  have htake : (initialiseProgram s.cfg).take (s.upc + xs.length) = (initialiseProgram s.cfg).take s.upc ++ xs := by
    rw [List.take_add, hd, List.take_left]
  rw [h.lstate, hi hl.1 ho, h.kept.cfg, h.upc, htake, lstateAfter_append]

theorem runSeq_completed {ms : List Micro} {s t : State} (h : runSeq ms s = .running t) : Completed ms s t := by
  induction ms generalizing s with
  | nil => cases h; exact .nil _
  | cons m ms ih =>
    rw [runSeq_cons] at h
    cases hp : m.perform s with
    | running u => rw [hp] at h; exact .cons (Stepped.of_running hp) (ih h)
    | ended u => rw [hp] at h; cases h
    | blocked u => rw [hp] at h; cases h

/-! ### Before the pulse: steps (a) and (b) -/

/-- Step (b), the bus setup with the register write after it (R182). -/
def bringupSetup : Micro := ⟨.busSetup, [.lstate .busConfigured]⟩

/-- INITIALIZE ends or waits at the bus setup, with `LSTATE` and the frame memory as before, or goes on to step (c). -/
theorem runMicros_initialise_cases (s : State) :
    ((runMicros (initialiseProgram s.cfg) s).lstate = s.lstate ∧
      ∀ a, (runMicros (initialiseProgram s.cfg) s).ctl.fb.read a = s.ctl.fb.read a) ∨
    ∃ u, Completed bringupStart s u ∧ runMicros (initialiseProgram s.cfg) s = runMicros (bringupRest s.cfg) u := by
  obtain ⟨t, hlines, -, hview, -, -, -, hctl⟩ := runSeq_bringupLines s
  have hl : t.lstate = s.lstate := congrArg View.lstate hview
  have hstart : runSeq bringupStart s = (bringupSetup.perform t).andThen .running := by
    rw [bringupStart, runSeq_append, hlines]
    exact runSeq_cons bringupSetup [] t
  have hrun : runMicros (initialiseProgram s.cfg) s =
      ((bringupSetup.perform t).andThen (runSeq (bringupRest s.cfg))).finish := by
    rw [runMicros, initialiseProgram_eq, runSeq_append, hstart]
    cases bringupSetup.perform t <;> rfl
  have hbyte (a : Nat) : (bringupSetup.perform t).state.ctl.fb.read a = s.ctl.fb.read a :=
    (bringupSetup.perform_byte t trivial).trans (by rw [hctl]; rfl)
  rw [hrun]
  cases hp : bringupSetup.perform t with
  | running u => exact .inr ⟨u, runSeq_completed (by rw [hstart, hp]; rfl), rfl⟩
  | ended u =>
    obtain ⟨v, rfl, r, -⟩ := Micro.perform_ended hp
    rw [hp] at hbyte
    exact .inl ⟨(State.abort_lstate v).trans (r.lstate.trans hl), hbyte⟩
  | blocked u =>
    rw [hp] at hbyte
    exact .inl ⟨(Waits.of_blocked hp).lstate.trans hl, hbyte⟩

/-- From step (c) on INITIALIZE never goes back to `UNINITIALIZED` (R187). -/
theorem runMicros_bringupRest_lstate {s u : State} (hl : s.hasLeft (initialiseProgram s.cfg))
    (ho : s.lat.opr = opInitialise) (hi : s.lifecycleInv) (h : Completed bringupStart s u) :
    (runMicros (bringupRest s.cfg) u).lstate ≠ .uninitialized := by
  have hlstate : u.lstate = .busConfigured := congrArg View.lstate h.view
  rw [initialiseProgram_eq] at hl
  obtain ⟨hforward, -⟩ := runMicros_bringup (h.hasLeft hl) (h.kept.lat ▸ ho) (h.lifecycleInv hl hi)
  intro hback
  rw [hlstate, hback] at hforward
  exact absurd hforward (by decide)

/-! ### From the pulse on: steps (c) to (e) -/

/-- Step (c) after `RST` went low, and steps (d) and (e). -/
def bringupAfterPulse (c : Config) : List Micro :=
  thenWrite (.lstate .registersProgrammed)
      (thenWrite (.lstate .resetSettled) [plain (.delay .rstLow), plain (.line .rst true), plain (.delay .rstHigh),
        plain (.delay .settle)] ++ bringupTable c)
    ++ thenWrite (.lstate .active) (bringupDisplay c)

theorem bringupRest_eq (c : Config) : bringupRest c = plain (.line .rst false) :: bringupAfterPulse c := rfl

/-- The frames of `INIT_TABLE` store nothing if none of them begins a memory-write. -/
theorem table_spares {g : Config} (a : Nat) {table : List InitEntry} (h : ∀ e ∈ table, e.opc ≠ g.opcRamwr) (v : View)
    (c : Controller) : c.spares g a (table.flatMap entryFrame) v := by
  induction table generalizing v c with
  | nil => trivial
  | cons e es ih =>
    rw [List.flatMap_cons, Controller.spares_append]
    refine ⟨frame_spares fun bs _ => ?_, ih (fun x hx => h x (List.mem_cons_of_mem e hx)) _ _⟩
    rw [Controller.receive_params_fb _ _ _ _ (c.opcode_op_ne_ramwr g _ (h e List.mem_cons_self)), Controller.opcode_fb]

theorem bringupAfterPulse_spares {g : Config} (h : ∀ e ∈ g.initTable, e.opc ≠ g.opcRamwr) (a : Nat) (v : View)
    (c : Controller) : c.spares g a (bringupAfterPulse g) v := by
  have bare (cmd : Byte) (v : View) (c : Controller) : c.spares g a (frame cmd none) v := frame_spares fun bs hbs => by
    rw [List.prefix_nil.1 hbs, Controller.receive_nil, Controller.opcode_fb]
  simp only [bringupAfterPulse, bringupDisplay, Controller.spares_append, Controller.spares_thenWrite]
  exact ⟨⟨⟨trivial, rfl, trivial, trivial, trivial⟩, table_spares a h _ _⟩,
    ⟨⟨bare _ _ _, trivial, trivial⟩, bare _ _ _⟩, trivial, trivial⟩

/-- Once `RST` has been low no byte is known (log 16), and a table without a memory-write stores none. -/
theorem runMicros_bringupRest_read {u : State} (h : ∀ e ∈ u.cfg.initTable, e.opc ≠ u.cfg.opcRamwr) (a : Nat) :
    (runMicros (bringupRest u.cfg) u).ctl.fb.read a = none :=
  runMicros_byte (bringupAfterPulse u.cfg) (u.line .rst false).advance (bringupAfterPulse_spares h a _ _)

/-- Settles O60: an INITIALIZE not past the setup has changed neither `LSTATE` nor the frame memory, and one
that has runs the pulse (`runMicros_initialise_cases`). -/
theorem bringupLeavesNoPixelKnown : Obligations.BringupLeavesNoPixelKnown := by
  intro s t hv hb hl he
  obtain rfl := Host.Outcome.next.inj ((exec_initialise s hl).symm.trans he)
  rcases runMicros_initialise_cases (s.accept s.lat.ofInitialise s.argBuf) with ⟨hlstate, hread⟩ | ⟨u, hu, hrun⟩
  · exact ⟨fun hne => absurd (hlstate.trans hl) hne, fun _ => hread⟩
  · have hne := runMicros_bringupRest_lstate (accept_hasLeft rfl s.argBuf) rfl (fun _ _ => hl) hu
    have hcfg : u.cfg = s.cfg := hu.kept.cfg
    rw [State.accept_cfg] at hrun hne
    rw [hrun]
    refine ⟨fun _ htable => ?_, fun h => absurd h hne⟩
    rw [← hcfg] at htable ⊢
    exact runMicros_bringupRest_read htable

end Sys2Proof.Machine
end

section
/-! # The other family: packets there and back, and what each request leaves alone

## Encoding and decoding (R84 to R90) -/

namespace Sys2Proof.Machine

/-! ### Each format's decoder undoes the encoder -/

theorem decodeCA_narg (cmd : Byte) {args : List Byte} (h : args.length ≤ 65535) :
    decodeCA (cmd :: be16 (BitVec.ofNat 16 args.length) ++ args) = .ok (.send cmd args) :=
  if_pos (show args.length = _ by rw [word16_hi_lo, toNat_narg h])

theorem decodeS_narg {data : List Byte} (h : data.length ≤ 65535) :
    decodeS (be16 (BitVec.ofNat 16 data.length) ++ data) = .ok (.stream data) :=
  if_pos (show data.length = _ by rw [word16_hi_lo, toNat_narg h])

theorem dirOfByte_dirByte (d : Dir) : dirOfByte (dirByte d) = .ok d := by
  cases d <;> rfl

theorem decodeW_be16 (dir : Dir) (x1 y1 x2 y2 : Word16) :
    decodeW (dirByte dir :: be16 x1 ++ be16 y1 ++ be16 x2 ++ be16 y2) = .ok (.setWindow dir x1 y1 x2 y2) := by
  simp only [be16, List.cons_append, List.nil_append, decodeW, dirOfByte_dirByte, word16_hi_lo]

theorem decodeF_be16 (x y w h color : Word16) :
    decodeF (be16 x ++ be16 y ++ be16 w ++ be16 h ++ be16 color) = .ok (.fillRect x y w h color) := by
  simp only [be16, List.cons_append, List.nil_append, decodeF, word16_hi_lo]

/-- Settles O6: byte 0 selects the request's own format, and that format's decoder undoes the encoder; `NARG` counts the
bytes because the request is well-formed. -/
theorem decodeOfEncode : Obligations.DecodeOfEncode := by
  intro i hw
  cases i with
  | initialise => rfl
  | cleanup => rfl
  | sendBare cmd => rfl
  | send cmd args => exact decodeCA_narg cmd (of_decide_eq_true hw)
  | setWindow dir x1 y1 x2 y2 => exact decodeW_be16 dir x1 y1 x2 y2
  | stream data => exact decodeS_narg (of_decide_eq_true hw)
  | endSession => rfl
  | fillRect x y w h color => exact decodeF_be16 x y w h color

/-- Settles O5, by running the decoder on the eight packets. -/
theorem samplePacketsDecode : Obligations.SamplePacketsDecode := by
  unfold Obligations.SamplePacketsDecode
  decide

end Sys2Proof.Machine
end

section
/-! ## What each request leaves alone, whatever the transport answers (R140 to R190) -/

namespace Sys2Proof.Machine

/-! ### From micro-operations to requests -/

/-- Micro-operations alone change this part of the state: acceptance, register writes, the response and the abort path
leave it as it is. -/
structure ChangedByOpsOnly {α : Type} (f : State → α) : Prop where
  accept : ∀ lat buf s, f (s.accept lat buf) = f s
  write : ∀ w s, f (s.write w) = f s
  advance : ∀ s, f s.advance = f s
  answer : ∀ st s, f (s.answer st) = f s
  respond : ∀ st s, f (s.respond st) = f s
  abort : ∀ s, f s.abort = f s

/-- The micro-operation leaves this part of the state as it is, whatever the transport answers. -/
def MicroOp.Keeps {α : Type} (f : State → α) (op : MicroOp) : Prop := ∀ s, f (op.run s).state = f s

namespace ChangedByOpsOnly

variable {α : Type} {f : State → α}

theorem writeAll (hf : ChangedByOpsOnly f) (ws : List RegWrite) (s : State) : f (s.writeAll ws) = f s := by
  induction ws generalizing s with
  | nil => rfl
  | cons w ws ih => rw [State.writeAll_cons, ih, hf.write]

theorem onError (hf : ChangedByOpsOnly f) (m : Micro) (s : State) : f (m.onError s) = f s := by
  by_cases hm : m.op = .busClose
  · rw [m.onError_busClose s hm, hf.respond, hf.writeAll]
  · rw [m.onError_eq_abort s hm, hf.abort]

theorem perform (hf : ChangedByOpsOnly f) {m : Micro} (hm : m.op.Keeps f) (s : State) :
    f (m.perform s).state = f s := by
  rw [← hm s, Micro.perform]
  cases m.op.run s with
  | completed t => exact (hf.advance _).trans (hf.writeAll m.writes t)
  | raised t => exact hf.onError m t
  | blocked t => rfl

theorem runMicros (hf : ChangedByOpsOnly f) {ms : List Micro} (h : ∀ m ∈ ms, m.op.Keeps f) (s : State) :
    f (runMicros ms s) = f s := by
  induction ms generalizing s with
  | nil => exact hf.respond .ok s
  | cons m ms ih =>
    have hm := hf.perform (h m List.mem_cons_self) s
    rw [Machine.runMicros, runSeq_cons]
    cases hp : m.perform s with
    | running t =>
      rw [hp] at hm
      exact (ih (fun n hn => h n (List.mem_cons_of_mem m hn)) t).trans hm
    | ended t => rwa [hp] at hm
    | blocked t => rwa [hp] at hm

/-- A request keeps what the micro-operations of its micro-program keep. -/
theorem exec (hf : ChangedByOpsOnly f) {i : Instr} {s t : State} (he : exec i s = .next t)
    (h : ∀ lat ms, lat.opr = Laws.opcodeOf i → microProgram s.cfg lat = some ms → ∀ m ∈ ms, m.op.Keeps f) :
    f t = f s := by
  cases exec_cases he with
  | ran lat buf ms ha hp e => rw [e, hf.runMicros (h lat ms (accepted_opr ha) hp), hf.accept]
  | refused e => rw [e, State.refuse, hf.answer]
  | nothingToDraw e => rw [e, hf.answer]

end ChangedByOpsOnly

/-! ### The parts of the state in question -/

/-- `RST` and the output enables of the other two lines. -/
def State.outputs (s : State) : LineReg × Bool × Bool := (s.rst, s.cs.oe, s.dc.oe)

theorem changedByOpsOnly_outputs : ChangedByOpsOnly State.outputs where
  accept _ _ _ := rfl
  write w _ := by cases w <;> rfl
  advance _ := rfl
  answer _ _ := rfl
  respond _ _ := rfl
  abort s := by rw [State.outputs, s.abort_rst, s.abort_cs_oe, s.abort_dc, State.outputs]

theorem changedByOpsOnly_dc : ChangedByOpsOnly State.dc where
  accept _ _ _ := rfl
  write w _ := by cases w <;> rfl
  advance _ := rfl
  answer _ _ := rfl
  respond _ _ := rfl
  abort := State.abort_dc

theorem changedByOpsOnly_txScript : ChangedByOpsOnly State.txScript where
  accept _ _ _ := rfl
  write w _ := by cases w <;> rfl
  advance _ := rfl
  answer _ _ := rfl
  respond _ _ := rfl
  abort := State.abort_txScript

theorem changedByOpsOnly_busScript : ChangedByOpsOnly State.busScript where
  accept _ _ _ := rfl
  write w _ := by cases w <;> rfl
  advance _ := rfl
  answer _ _ := rfl
  respond _ _ := rfl
  abort := State.abort_busScript

/-! ### What a micro-operation can change (R120, R122, R125) -/

/-- A transfer moves its own script on, and changes nothing else but the counter, the controller and the trace. -/
theorem State.tx_state (bytes : List Byte) (tmo : Timeout) (s : State) :
    ∃ sc n c es, (s.tx bytes tmo).state = { s with txScript := sc, freeCount := n, ctl := c, trace := es } := by
  obtain ⟨sc, n, h, -, -⟩ := s.nextTx_spec
  rcases hr : s.nextTx with ⟨r, t⟩
  rw [hr] at h
  subst h
  cases r with
  | pending => exact ⟨_, _, _, _, by rw [State.tx_of_pending hr]; rfl⟩
  | answer a =>
    rw [State.tx_of_answer hr]
    split_ifs
    · exact ⟨_, _, _, _, rfl⟩
    · exact ⟨_, _, _, _, rfl⟩

/-- Closing the bus moves its own script on, and changes nothing else but the counter and the trace. -/
theorem State.busClose_state (s : State) :
    ∃ sc n es, s.busClose.state = { s with busScript := sc, freeCount := n, trace := es } := by
  obtain ⟨sc, n, h, -, -⟩ := s.nextBus_spec
  rcases hr : s.nextBus with ⟨r, t⟩
  rw [hr] at h
  subst h
  unfold State.busClose
  rw [hr]
  cases r with
  | pending => exact ⟨_, _, _, rfl⟩
  | answer a => cases a <;> exact ⟨_, _, _, rfl⟩

theorem tx_keeps {α : Type} {f : State → α}
    (hf : ∀ s sc n c es, f { s with txScript := sc, freeCount := n, ctl := c, trace := es } = f s)
    (src : TxSource) (tmo : Timeout) : (MicroOp.tx src tmo).Keeps f := by
  intro s
  obtain ⟨sc, n, c, es, h⟩ := s.tx_state (src.read s) tmo
  exact (congrArg f h).trans (hf s sc n c es)

theorem busClose_keeps {α : Type} {f : State → α}
    (hf : ∀ s sc n es, f { s with busScript := sc, freeCount := n, trace := es } = f s) :
    MicroOp.busClose.Keeps f := by
  intro s
  obtain ⟨sc, n, es, h⟩ := s.busClose_state
  exact (congrArg f h).trans (hf s sc n es)

/-! ### The micro-programs other than INITIALIZE's -/

/-- The micro-operations of the two framing procedures (R142, R151): transfers, and writes of `CS` and `DC`. -/
inductive MicroOp.Framing : MicroOp → Prop
  | cs (v : Level) : Framing (.line .cs v)
  | dc (v : Level) : Framing (.line .dc v)
  | tx (src : TxSource) (tmo : Timeout) : Framing (.tx src tmo)

theorem MicroOp.Framing.keeps_outputs {op : MicroOp} (h : op.Framing) : op.Keeps State.outputs := by
  cases h with
  | cs v => cases v <;> exact fun _ => rfl
  | dc v => exact fun _ => rfl
  | tx src tmo => exact tx_keeps (fun _ _ _ _ _ => rfl) src tmo

theorem MicroOp.Framing.keeps_busScript {op : MicroOp} (h : op.Framing) : op.Keeps State.busScript := by
  cases h with
  | cs v => exact State.line_busScript .cs v
  | dc v => exact State.line_busScript .dc v
  | tx src tmo => exact tx_keeps (fun _ _ _ _ _ => rfl) src tmo

/-- Every step of the list is a framing micro-operation. -/
def FramesOnly (ms : List Micro) : Prop := ∀ m ∈ ms, m.op.Framing

theorem FramesOnly.append {xs ys : List Micro} (hx : FramesOnly xs) (hy : FramesOnly ys) : FramesOnly (xs ++ ys) :=
  fun m hm => (List.mem_append.1 hm).elim (hx m) (hy m)

theorem FramesOnly.thenWrite {ms : List Micro} (h : FramesOnly ms) (w : RegWrite) : FramesOnly (thenWrite w ms) := by
  intro m hm
  obtain ⟨n, hn, e⟩ := List.mem_map.1 (map_op_thenWrite w ms ▸ List.mem_map_of_mem hm)
  exact e ▸ h n hn

theorem frame_framesOnly (cmd : Byte) (args : Option TxSource) : FramesOnly (frame cmd args) := by
  cases args <;> simp [FramesOnly, frame, frameArgs, plain, MicroOp.Framing.cs, MicroOp.Framing.dc, MicroOp.Framing.tx]

theorem window_framesOnly (c : Config) (x1 y1 x2 y2 : Word16) (dir : Dir) :
    FramesOnly (window c x1 y1 x2 y2 dir) :=
  FramesOnly.thenWrite (by simp [FramesOnly, plain, MicroOp.Framing.cs, MicroOp.Framing.dc, MicroOp.Framing.tx]) _

theorem streamProgram_framesOnly : FramesOnly streamProgram := List.forall_mem_singleton.2 (.tx _ _)

theorem endSessionProgram_framesOnly : FramesOnly endSessionProgram := List.forall_mem_singleton.2 (.cs _)

theorem fillProgram_framesOnly (c : Config) (lat : Latches) : FramesOnly (fillProgram c lat) := by
  have hrows : FramesOnly (List.replicate (span lat.y1 lat.y2) (plain (.tx .rowBuf .row))) := fun m hm =>
    List.eq_of_mem_replicate hm ▸ .tx _ _
  exact (((window_framesOnly _ _ _ _ _ _).thenWrite _).append hrows).append endSessionProgram_framesOnly

/-- All requests but INITIALIZE frame, or are CLEANUP and close the bus. -/
theorem microProgram_framesOnly {c : Config} {lat : Latches} {ms : List Micro} (h : microProgram c lat = some ms)
    (hi : lat.opr ≠ opInitialise) : (lat.opr = opCleanup ∧ ms = cleanupProgram) ∨ FramesOnly ms := by
  rw [microProgram, if_neg hi] at h
  split_ifs at h with hc <;> cases h
  · exact .inl ⟨hc, rfl⟩
  · exact .inr (frame_framesOnly _ _)
  · exact .inr (frame_framesOnly _ _)
  · exact .inr (window_framesOnly _ _ _ _ _ _)
  · exact .inr streamProgram_framesOnly
  · exact .inr endSessionProgram_framesOnly
  · exact .inr (fillProgram_framesOnly c lat)

/-! ### The requests (R140 to R190) -/

theorem exec_inputs {i : Instr} {s t : State} (he : exec i s = .next t) : t.inputs = s.inputs := by
  cases exec_cases he with
  | ran lat buf ms ha hp e => rw [e, runMicros_inputs, State.accept_inputs]
  | refused e => rw [e, State.refuse_inputs]
  | nothingToDraw e => rw [e, State.answer_inputs]

theorem exec_outputs {i : Instr} {s t : State} (he : exec i s = .next t) (hi : i ≠ .initialise) :
    t.outputs = s.outputs := by
  refine changedByOpsOnly_outputs.exec he fun lat ms ho hp => ?_
  rcases microProgram_framesOnly hp fun h => hi (opcodeOf_initialise (ho ▸ h)) with ⟨-, rfl⟩ | hms
  · exact List.forall_mem_singleton.2 (busClose_keeps fun _ _ _ _ => rfl)
  · exact fun m hm => (hms m hm).keeps_outputs

theorem exec_busScript {i : Instr} {s t : State} (he : exec i s = .next t) (hi : i ≠ .initialise)
    (hc : i ≠ .cleanup) : t.busScript = s.busScript := by
  refine changedByOpsOnly_busScript.exec he fun lat ms ho hp => ?_
  rcases microProgram_framesOnly hp fun h => hi (opcodeOf_initialise (ho ▸ h)) with ⟨h, -⟩ | hms
  · exact absurd (opcodeOf_cleanup (ho ▸ h)) hc
  · exact fun m hm => (hms m hm).keeps_busScript

/-- STREAM, END_SESSION and CLEANUP have one step each: a transfer, a write of `CS`, a `bus_close`. -/
theorem microProgram_single {c : Config} {lat : Latches} {ms : List Micro} (h : microProgram c lat = some ms) :
    (lat.opr = opStream → ms = streamProgram) ∧ (lat.opr = opEndSession → ms = endSessionProgram) ∧
      (lat.opr = opCleanup → ms = cleanupProgram) := by
  refine ⟨fun ho => ?_, fun ho => ?_, fun ho => ?_⟩
  all_goals
    rw [microProgram, ho] at h
    exact (Option.some.inj h).symm

theorem exec_dc {i : Instr} {s t : State} (he : exec i s = .next t)
    (hi : (∃ data, i = .stream data) ∨ i = .endSession ∨ i = .cleanup) : t.dc = s.dc := by
  refine changedByOpsOnly_dc.exec he fun lat ms ho hp => ?_
  obtain ⟨hstream, hend, hcleanup⟩ := microProgram_single hp
  rcases hi with ⟨data, rfl⟩ | rfl | rfl
  · rw [hstream ho]
    exact List.forall_mem_singleton.2 (tx_keeps (fun _ _ _ _ _ => rfl) _ _)
  · rw [hend ho]
    exact List.forall_mem_singleton.2 fun _ => rfl
  · rw [hcleanup ho]
    exact List.forall_mem_singleton.2 (busClose_keeps fun _ _ _ _ => rfl)

theorem exec_txScript {i : Instr} {s t : State} (he : exec i s = .next t) (hi : i = .endSession ∨ i = .cleanup) :
    t.txScript = s.txScript := by
  refine changedByOpsOnly_txScript.exec he fun lat ms ho hp => ?_
  obtain ⟨-, hend, hcleanup⟩ := microProgram_single hp
  rcases hi with rfl | rfl
  · rw [hend ho]
    exact List.forall_mem_singleton.2 fun _ => rfl
  · rw [hcleanup ho]
    exact List.forall_mem_singleton.2 (busClose_keeps fun _ _ _ _ => rfl)

theorem exec_cleanup_kept {s t : State} (he : exec .cleanup s = .next t) : t.cs = s.cs ∧ t.session = s.session := by
  cases exec_cases he with
  | ran lat buf ms ha hp e =>
    obtain ⟨-, -, hcleanup⟩ := microProgram_single hp
    obtain ⟨hsession, hcs⟩ := runMicros_cleanup (s.accept lat buf)
    rw [e, hcleanup (accepted_opr ha)]
    exact ⟨hcs, hsession⟩
  | refused e => rw [e]; exact ⟨rfl, rfl⟩
  | nothingToDraw e => rw [e]; exact ⟨rfl, rfl⟩

/-! ### The session of SEND and SEND_BARE (R140, R141, R204) -/

theorem View.session_afterAll_plain {ms : List Micro} (h : ∀ m ∈ ms, m.writes = []) (v : View) :
    (v.afterAll ms).session = v.session := by
  induction ms generalizing v with
  | nil => rfl
  | cons m ms ih =>
    have hm : v.after m = v.afterOp m.op := by rw [View.after, h m List.mem_cons_self]; rfl
    have hms := ih (fun n hn => h n (List.mem_cons_of_mem m hn)) (v.after m)
    exact hms.trans (hm ▸ v.session_afterOp m.op)

/-- A list without register writes keeps a closed session closed; the abort path closes it anyway. -/
theorem runMicros_plain_session {ms : List Micro} (h : ∀ m ∈ ms, m.writes = []) {s : State}
    (hs : s.session = .closed) : (runMicros ms s).session = .closed := by
  have hdone {xs : List Micro} {u : State} (k : Completed xs s u) (hx : ∀ m ∈ xs, m.writes = []) :
      u.session = .closed :=
    ((congrArg View.session k.view).trans (View.session_afterAll_plain hx s.view)).trans hs
  cases runMicros_cases ms s with
  | answered u k e => rw [e, State.respond_session, hdone k h]
  | failed pre m post v u hms k r hc e =>
    subst hms
    have hu : u.session = .closed := r.session.trans (hdone k fun n hn => h n (List.mem_append_left _ hn))
    rw [e]
    by_cases hm : m.op = .busClose
    · rw [m.onError_busClose u hm, h m (by simp), State.respond_session, State.writeAll_nil, hu]
    · rw [m.onError_eq_abort u hm, State.abort_session]
  | waiting pre m post v hms k w =>
    subst hms
    have hv : v.session = .closed := hdone k fun n hn => h n (List.mem_append_left _ hn)
    obtain ⟨tx, bus, n, e⟩ := w.same
    rw [e]
    exact hv

theorem frame_plain (cmd : Byte) (args : Option TxSource) : ∀ m ∈ frame cmd args, m.writes = [] := by
  cases args <;> simp [frame, frameArgs, plain]

theorem microProgram_frame {c : Config} {lat : Latches} {ms : List Micro} (h : microProgram c lat = some ms)
    (ho : lat.opr = opSendBare ∨ lat.opr = opSend) : ∃ args, ms = frame lat.cmd args := by
  rcases ho with ho | ho
  all_goals
    rw [microProgram, ho] at h
    exact ⟨_, (Option.some.inj h).symm⟩

/-- SEND and SEND_BARE are admitted with no session open, and leave none open. -/
theorem exec_frame_session {i : Instr} {s t : State} (he : exec i s = .next t)
    (hi : (∃ cmd, i = .sendBare cmd) ∨ ∃ cmd args, i = .send cmd args) : t.session = s.session := by
  cases exec_cases he with
  | ran lat buf ms ha hp e =>
    have ho := accepted_opr ha
    have hadm := accepted_admitted ha
    have hboth : (lat.opr = opSendBare ∨ lat.opr = opSend) ∧ s.commandMode = true := by
      rcases hi with ⟨cmd, rfl⟩ | ⟨cmd, args, rfl⟩
      · exact ⟨.inl ho, hadm⟩
      · exact ⟨.inr ho, hadm⟩
    obtain ⟨hopr, hmode⟩ := hboth
    obtain ⟨-, hs⟩ := (commandMode_iff s).1 hmode
    obtain ⟨args, rfl⟩ := microProgram_frame hp hopr
    rw [e, hs]
    exact runMicros_plain_session (frame_plain _ _) hs
  | refused e => rw [e, State.refuse_session]
  | nothingToDraw e => rw [e, State.answer_session]

/-- Settles O49, part by part: a request keeps what the micro-operations of its micro-program keep
(`ChangedByOpsOnly.exec`); the session of a frame is closed before and after. -/
theorem requestsKeepOtherRegisters : Obligations.RequestsKeepOtherRegisters := by
  intro s t i _ he
  refine ⟨exec_cfg he, exec_inputs he, fun hi => ?_, exec_busScript he, exec_dc he, ?_,
    fun hi => exec_txScript he (.inl hi), exec_frame_session he⟩
  · have h := exec_outputs he hi
    simpa only [State.outputs, Prod.mk.injEq] using h
  · rintro rfl
    obtain ⟨hcs, hsession⟩ := exec_cleanup_kept he
    exact ⟨hcs, hsession, exec_txScript he (.inr rfl)⟩

end Sys2Proof.Machine
end
